-- ==== Sys2Proof/Word.lean ====
section
/-! DEFINITION. The widths of every value of the hardware (00_scope.md R4, R5, R7; 42_arithmetic_laws.md R59):
all are unsigned and bit 0 is the least significant bit. -/

namespace Sys2Proof

/-- A 16-bit unsigned value: a divisor, a dividend, a quotient or a remainder (R4, `u16`). -/
abbrev Half := BitVec 16

/-- A 32-bit unsigned value: `DMD`, `MULT`, the fraction (R4, `u32`). -/
abbrev Word := BitVec 32

/-- A 64-bit unsigned value: a full 32 x 32 product (R4, `u64`). -/
abbrev DWord := BitVec 64

/-- A 19-bit command word: `op` in bits 18:16, `arg` in bits 15:0 (R5, R34). -/
abbrev CmdWord := BitVec 19

/-- The 3-bit opcode field of a command word (R34). -/
abbrev Opcode := BitVec 3

end Sys2Proof
end

