-- ==== Sys2Proof/Syntax.lean ====
section
/-! DEFINITION. The commands of the engine (30_encoding.md R35): one constructor for each row of the opcode table,
carrying the one operand `arg` (R36). -/

namespace Sys2Proof

/-- A command. The reserved rows carry `arg` too, which they ignore (R37), so that a command word and its command
determine each other. -/
inductive Instr where
  /-- `CONSTRUCT d` (R46): `d` is the divisor. -/
  | construct (d : Half)
  /-- `DIV n` (R52): `n` is the dividend. -/
  | div (n : Half)
  /-- `MOD n` (R53): `n` is the dividend. -/
  | mod (n : Half)
  /-- `DIVMOD n` (R54): `n` is the dividend. -/
  | divmod (n : Half)
  /-- `DIVISIBLE n` (R55): `n` is the dividend. -/
  | divisible (n : Half)
  /-- Reserved opcode 5 (R37). -/
  | reserved5 (arg : Half)
  /-- Reserved opcode 6 (R37). -/
  | reserved6 (arg : Half)
  /-- Reserved opcode 7 (R37). -/
  | reserved7 (arg : Half)
deriving DecidableEq, Repr

end Sys2Proof
end

