-- ==== Sys2Proof/WellFormed.lean ====
section
/-! DEFINITION. What makes a command well formed. All 65 536 values of `arg` are legal for every command
(30_encoding.md R36) and `arg` is a 16-bit value by its type, so every term of `Instr` is well formed. What can be ill
formed is a NUMBER before it is a command word or one of its fields (R34): that is what the checks look at. -/

namespace Sys2Proof

/-- `w` is a command word: `0 <= w < 2^19` (R34). -/
def WellFormed.wordNumber (w : Nat) : Bool := decide (w < 2 ^ 19)

/-- `op` fits the opcode field, bits 18:16 (R34). -/
def WellFormed.opNumber (op : Nat) : Bool := decide (op < 2 ^ 3)

/-- `arg` fits the argument field, bits 15:0 (R34, R36): a divisor or dividend outside 0 to 65 535 cannot be expressed. -/
def WellFormed.argNumber (arg : Nat) : Bool := decide (arg < 2 ^ 16)

/-- The operand of a command: the divisor of CONSTRUCT, the dividend of a query (R36). -/
def Instr.operand : Instr → Half
  | .construct d => d
  | .div n => n
  | .mod n => n
  | .divmod n => n
  | .divisible n => n
  | .reserved5 a => a
  | .reserved6 a => a
  | .reserved7 a => a

/-- A command is well formed when its operand fits the argument field. -/
def Instr.wf (i : Instr) : Bool := WellFormed.argNumber i.operand.toNat

end Sys2Proof
end

