-- ==== Sys2Proof/Decode.lean ====
section
/-! DEFINITION. The command word (30_encoding.md R34 to R38): its two fields, the decoder, total on all 2^19 words, and
the encoder. There is no byte order (20_memory.md R24): a command word is one 19-bit number. -/

namespace Sys2Proof

/-- The field `op`, bits 18:16 (R34). -/
def opField (w : CmdWord) : Opcode := w.extractLsb' 16 3

/-- The field `arg`, bits 15:0, taken as it stands (R34, R36). -/
def argField (w : CmdWord) : Half := w.extractLsb' 0 16

/-- The command a word spells (R35). The eight opcodes cover every word; 5, 6 and 7 are the reserved rows (R37). -/
def decode (w : CmdWord) : Instr :=
  match (opField w).toFin with
  | 0 => .construct (argField w)
  | 1 => .div (argField w)
  | 2 => .mod (argField w)
  | 3 => .divmod (argField w)
  | 4 => .divisible (argField w)
  | 5 => .reserved5 (argField w)
  | 6 => .reserved6 (argField w)
  | 7 => .reserved7 (argField w)

/-- Why a number spells no command. -/
inductive DecodeError where
  /-- The number needs more than 19 bits, so it is no command word (R34, R38). -/
  | notACommandWord
deriving DecidableEq, Repr

/-- The command a number spells: every number below `2^19` spells one, every other is rejected by name (R34, R38). -/
def decodeNumber (w : Nat) : Except DecodeError Instr :=
  if WellFormed.wordNumber w then .ok (decode (BitVec.ofNat 19 w)) else .error .notACommandWord

/-- The opcode of a command (R35). -/
def opcodeOf : Instr → Opcode
  | .construct _ => 0#3
  | .div _ => 1#3
  | .mod _ => 2#3
  | .divmod _ => 3#3
  | .divisible _ => 4#3
  | .reserved5 _ => 5#3
  | .reserved6 _ => 6#3
  | .reserved7 _ => 7#3

/-- The command word of a command, `op || arg` (R34). -/
def encode (i : Instr) : CmdWord := opcodeOf i ++ i.operand

/-- The number the host's table word stands for: its bits below `nbits`, every bit above them being 0. -/
def tableNumber (nbits w : Nat) : Nat := w % 2 ^ nbits

/-- The command the decoder reads from a word of the opcode table, whose bits are numbered as R34 numbers them. -/
def decodeTableWord (nbits w : Nat) : Option Instr :=
  match decodeNumber (tableNumber nbits w) with
  | .ok i => some i
  | .error _ => none

end Sys2Proof
end

