-- ==== Sys2Proof/Config.lean ====
section
/-! DEFINITION. What is fixed for the machine and what the model had to name. The spec leaves no parameter open
(00_scope.md R5, 92_eei_decisions.md), so there is no free value and no implementation-defined field here. -/

namespace Sys2Proof

/-- The identity string of the configuration (R1): unsigned 16-bit operands, 32-bit magic multiplier. -/
def Config.identity : String := "reciprocal_divmod_engine/u16-m32"

/-- The dividend of the general path's one division, `2^32 - 1` (R49). -/
def Config.magicDividend : Word := 0xFFFFFFFF#32

/-- What `DMD` holds after reset. DESIGN CHOICE, unsafe, log entry 1: R22 gives the register no value there. -/
def Config.resetDmd : Word := 0#32

/-- What `MULT` holds after reset. DESIGN CHOICE, unsafe, log entry 1: R22 gives the register no value there. -/
def Config.resetMult : Word := 0#32

/-- What `POW2` holds after reset. DESIGN CHOICE, unsafe, log entry 1: R22 gives the register no value there. -/
def Config.resetPow2 : Bool := false

end Sys2Proof
end

