-- ==== Sys2Proof/Machine/State.lean ====
section
/-! DEFINITION. The state of the engine (10_state.md), the host's moves and the responses, as plain data, and the state
after reset (10_state.md R22, 70_reset_and_hazards.md R85). -/

namespace Sys2Proof.Machine

/-- The three faults the engine raises (60_exceptions.md R71). -/
inductive Cause where
  /-- Code 1: CONSTRUCT with `arg == 0` (R72). -/
  | divideByZero
  /-- Code 2: a query while `VALID == 0` (R73). -/
  | notConstructed
  /-- Code 3: a reserved opcode (R74). -/
  | illegalCommand
deriving DecidableEq, Repr

/-- The Reciprocal triple: the three registers CONSTRUCT writes together (R10 to R12). -/
structure Reciprocal where
  /-- `DMD`: `d - 1` when `POW2 == 1`, `d` when `POW2 == 0` (R10). -/
  dmd : Word
  /-- `MULT`: the shift amount when `POW2 == 1`, the magic constant when `POW2 == 0` (R11). -/
  mult : Word
  /-- `POW2`: which reading of the two applies (R12). -/
  pow2 : Bool
deriving DecidableEq, Repr

/-- The response to one command taken (30_encoding.md R39 to R41): one shape for each command, holding exactly the
result fields that are meaningful for it, so that an unspecified field does not exist (log entry 4). -/
inductive Response where
  /-- CONSTRUCT, status `OK`: no result field. -/
  | constructed
  /-- DIV, status `OK`: `q`. -/
  | quotient (q : Half)
  /-- MOD, status `OK`: `r`. -/
  | remainder (r : Half)
  /-- DIVMOD, status `OK`: `q` and `r`. -/
  | quotientRemainder (q r : Half)
  /-- DIVISIBLE, status `OK`: `b`. -/
  | divisibility (b : Bool)
  /-- Any command, status the cause: no result field. -/
  | failed (c : Cause)
deriving DecidableEq, Repr

/-- What the host can do to the engine (00_scope.md R6). -/
inductive HostMove where
  /-- Present a command word. -/
  | command (w : CmdWord)
  /-- Assert reset (70_reset_and_hazards.md R85). -/
  | reset
deriving DecidableEq, Repr

/-- The engine's five registers, and three fields of the model's own that are no registers of the engine: the host's
moves still to come, the responses given, and the words that were presented but never taken. -/
structure State where
  /-- `DMD`, `MULT`, `POW2` (R10 to R12). -/
  recip : Reciprocal
  /-- `VALID` (R13). -/
  valid : Bool
  /-- `FAULT` (R14): `none` is code 0. -/
  fault : Option Cause
  /-- The model's own: what the host will do, next move first (R6, R28; log entry 2). -/
  moves : List HostMove
  /-- The model's own: the responses given, oldest first (R39, R94; log entry 3). -/
  responses : List Response
  /-- The model's own: command words presented to a faulted engine and never taken, oldest first (R33, R77, R94;
  log entry 5). -/
  untaken : List CmdWord
deriving DecidableEq, Repr

/-- Why the machine stops with a fault. -/
inductive Fault where
  /-- Raised by every command when `FAULT` holds `c`: while `FAULT != 0` no command has a step (R42, R77). Safe: the
  spec itself says that nothing happens and no response is given. -/
  | engineFaulted (c : Cause)
deriving DecidableEq, Repr

/-- Why the machine gives a command no meaning. -/
inductive Refusal where
  /-- Raised by an arm of `exec` whose instruction has no meaning yet. Safe. -/
  | notModelled (mnemonic : String)
  /-- Raised by a query when `VALID == 1` and the triple is none that a CONSTRUCT could have left (R15,
  93_implementation_defined.md U7). Safe: no command sequence leads there, and the spec says to refuse. -/
  | illFormedReciprocal
deriving DecidableEq, Repr

/-- What the triple holds after reset: the values log entry 1 names, since the spec gives none (R22). -/
def Reciprocal.reset : Reciprocal :=
  { dmd := Config.resetDmd, mult := Config.resetMult, pow2 := Config.resetPow2 }

/-- The machine right after reset: `VALID == 0`, `FAULT == 0` (R22, R85), nothing presented and nothing answered. -/
def State.reset : State :=
  { recip := Reciprocal.reset, valid := false, fault := none, moves := [], responses := [], untaken := [] }

end Sys2Proof.Machine
end

