-- ==== Sys2Proof/Machine/Flags.lean ====
section
/-! DEFINITION. The one-bit conditions the spec computes and the codes of the faults: the power-of-two test behind
`POW2` (00_scope.md R8), the unsigned comparison of DIVISIBLE (41_queries.md R55), and the codes that `FAULT` and the
response status carry (30_encoding.md R40, 60_exceptions.md R71). -/

namespace Sys2Proof.Machine

/-- The number of bits of `d` below bit `k` that are 1. -/
def onesBelow (d : Half) : Nat → Nat
  | 0 => 0
  | k + 1 => onesBelow d k + (d.getLsbD k).toNat

/-- `popcount16(d)`: the number of bits of `d` that are 1 (R8; K1, log entry 13). -/
def popcount16 (d : Half) : Nat := onesBelow d 16

/-- `ispow2(d)`: exactly one set bit (R8). This is what CONSTRUCT tests and what `POW2` records. -/
def isPow2 (d : Half) : Bool := popcount16 d == 1

/-- The index of the first bit of `d` that is 1, looking at `fuel` bits from bit `i` up. -/
def firstOneFrom (d : Half) : Nat → Nat → Nat
  | 0, i => i
  | fuel + 1, i => if d.getLsbD i then i else firstOneFrom d fuel (i + 1)

/-- `ctz16(d)`: the index of the lowest bit of `d` that is 1 (R8; K1, log entry 13). No rule evaluates it at 0. -/
def ctz16 (d : Half) : Nat := firstOneFrom d 16 0

/-- `frac <= MULT -_32 1`, compared as unsigned values: the general path of DIVISIBLE (R55). -/
def withinSlack (frac mult : Word) : Bool := decide (frac ≤ mult - 1#32)

/-- The 2-bit code of `FAULT` and of the response status: 0 for no fault (`None`, `OK`), else the cause's (R14, R40,
R71). -/
def causeCode : Option Cause → BitVec 2
  | none => 0#2
  | some .divideByZero => 1#2
  | some .notConstructed => 2#2
  | some .illegalCommand => 3#2

end Sys2Proof.Machine
end

