-- ==== Sys2Proof/Machine/Operands.lean ====
section
/-! DEFINITION. The value primitives of 00_scope.md R7 and R8, the magic constant (40_construct.md R49), and which
triples a construction can leave (10_state.md R15). -/

namespace Sys2Proof.Machine

/-- `zext_32(v)`: "widened to 32 bits" (R7). -/
def zext32 (v : Half) : Word := v.setWidth 32

/-- `trunc_16(v)`: "truncated back to 16 bits" (R7). -/
def trunc16 (v : Word) : Half := v.setWidth 16

/-- `mul64(a, b)`: the full 32 x 32 -> 64-bit product (R8). -/
def mul64 (a b : Word) : DWord := a.setWidth 64 * b.setWidth 64

/-- `hi32(p)`: bits 63:32 (R8). -/
def hi32 (p : DWord) : Word := p.extractLsb' 32 32

/-- `lo32(p)`: bits 31:0, the "fraction" (R8). -/
def lo32 (p : DWord) : Word := p.extractLsb' 0 32

/-- `a *_32 b`: the product modulo `2^32` (R8); the wrap is part of the algorithm (R60). -/
def mul32 (a b : Word) : Word := lo32 (mul64 a b)

/-- `udiv32(a, b)` for `b != 0`: the unsigned quotient (R8). No rule evaluates it at `b == 0`. -/
def udiv32 (a b : Word) : Word := a / b

/-- `udiv32(0xFFFFFFFF, d) +_32 1`: the magic constant of a general-path divisor (R49, conflict C1). -/
def magicConstant (d : Word) : Word := udiv32 Config.magicDividend d + 1#32

/-- The triple is one that a construction leaves (R15): on the power-of-two path a shift `k` in 0 to 15 with the mask
`2^k - 1`, on the general path a divisor from 3 to 65 535, no power of two, with its magic constant. -/
def Reciprocal.wf (t : Reciprocal) : Bool :=
  if t.pow2 then
    decide (t.mult.toNat ≤ 15) && decide (t.dmd = BitVec.ofNat 32 (2 ^ t.mult.toNat - 1))
  else
    decide (3 ≤ t.dmd.toNat) && decide (t.dmd.toNat ≤ 65535) && !isPow2 (trunc16 t.dmd) &&
      decide (t.mult = magicConstant t.dmd)

/-- The divisor a well-formed triple stands for: `DMD + 1` when `POW2 == 1`, `DMD` when `POW2 == 0` (R15). -/
def Reciprocal.divisor (t : Reciprocal) : Nat :=
  if t.pow2 then t.dmd.toNat + 1 else t.dmd.toNat

/-- The tagged-union view of the triple (R17). -/
inductive ReciprocalView where
  /-- `PowerOfTwo{shift, mask}`. -/
  | powerOfTwo (shift mask : Word)
  /-- `General{multiplier, divisor}`. -/
  | general (multiplier divisor : Word)
deriving DecidableEq, Repr

/-- The triple read as a tagged union (R17). -/
def Reciprocal.view (t : Reciprocal) : ReciprocalView :=
  if t.pow2 then .powerOfTwo t.mult t.dmd else .general t.mult t.dmd

/-- The triple of a tagged union (R17). -/
def ReciprocalView.triple : ReciprocalView → Reciprocal
  | .powerOfTwo k m => { dmd := m, mult := k, pow2 := true }
  | .general m d => { dmd := d, mult := m, pow2 := false }

end Sys2Proof.Machine
end

