-- ==== Sys2Proof/Machine/Ops.lean ====
section
/-! DEFINITION. The named operations every meaning is built from: answering, raising a fault (60_exceptions.md R76),
loading a triple, the reset event (70_reset_and_hazards.md R85), the two guards of the dispatch (30_encoding.md R42), and
taking the host's next move (20_memory.md R28). -/

namespace Sys2Proof.Machine

/-- What a command answers. -/
abbrev Result := Host.Outcome State Fault Refusal

/-- `respond(...)`: the one response of the step (R9, R39). -/
def State.respond (s : State) (r : Response) : State :=
  { s with responses := s.responses ++ [r] }

/-- `raise c` (R76): `FAULT` gets the code and the response has it as its status; every other register keeps its value. -/
def State.raise (s : State) (c : Cause) : State :=
  { s with fault := some c, responses := s.responses ++ [.failed c] }

/-- A construction's writes: `DMD`, `MULT`, `POW2`, `VALID`, all four together (R46). -/
def State.load (s : State) (t : Reciprocal) : State :=
  { s with recip := t, valid := true }

/-- The reset event (R85): the five registers as after reset, no response; what the host has still to do and what was
answered before are no state of the engine and stay. -/
def State.hostReset (s : State) : State :=
  { s with recip := Reciprocal.reset, valid := false, fault := none }

/-- The first test of the dispatch (R42): a faulted engine has no step (R77). -/
def whenUnfaulted (s : State) (act : State → Result) : Result :=
  match s.fault with
  | none => act s
  | some c => .fault (.engineFaulted c)

/-- The dispatch of a query (R42, R51): a faulted engine has no step; `VALID == 0` raises `NotConstructed` (R73); a
triple that no construction could have left is refused (R15, U7); else the answer is a function of the triple and no
register changes (R16, R58). -/
def answerQuery (s : State) (answer : Reciprocal → Response) : Result :=
  whenUnfaulted s fun u =>
    match u.valid, u.recip.wf with
    | false, _ => .next (u.raise .notConstructed)
    | true, true => .next (u.respond (answer u.recip))
    | true, false => .refused .illFormedReciprocal

/-- The command words that stand before the first reset among the host's moves, and the moves after that reset; `none`
where there is no reset among them. -/
def splitAtReset : List HostMove → Option (List CmdWord × List HostMove)
  | [] => none
  | .reset :: ms => some ([], ms)
  | .command w :: ms =>
    match splitAtReset ms with
    | none => none
    | some (ws, rest) => some (w :: ws, rest)

/-- What the engine meets next at its ports. -/
inductive Meeting where
  /-- Nothing is presented and no reset asserted. -/
  | idle
  /-- The host asserts reset; the state is the one whose registers the reset will clear. -/
  | reset (s : State)
  /-- The host presents a command word; the state is the one the command runs in. -/
  | command (w : CmdWord) (s : State)
deriving DecidableEq, Repr

/-- The host's next move as an unfaulted engine meets it: the first of the list (R28). -/
def meetFirst (s : State) : Meeting :=
  match s.moves with
  | [] => .idle
  | .reset :: ms => .reset { s with moves := ms }
  | .command w :: ms => .command w { s with moves := ms }

/-- The host's next move as the engine meets it. A faulted engine takes no command (R33, R77), so words presented
before the next reset stay untaken and that reset comes next (R78, R86); where no reset is to come, the presented word
stands there and has no step. -/
def meetNext (s : State) : Meeting :=
  match s.fault, splitAtReset s.moves with
  | some _, some (ws, ms) => .reset { s with moves := ms, untaken := s.untaken ++ ws }
  | _, _ => meetFirst s

/-- The host puts a command word in front of its other moves. -/
def State.present (s : State) (w : CmdWord) : State :=
  { s with moves := .command w :: s.moves }

end Sys2Proof.Machine
end

