-- ==== Sys2Proof/Machine/Construct.lean ====
section
/-! DEFINITION. CONSTRUCT (40_construct.md R46 to R50). -/

namespace Sys2Proof.Machine

/-- The triple of a power of two (R47): the shift amount and the mask `d - 1`. -/
def powerOfTwoTriple (d : Half) : Reciprocal :=
  { dmd := zext32 (d - 1#16), mult := BitVec.ofNat 32 (ctz16 d), pow2 := true }

/-- The triple of any other divisor (R49): the divisor and its magic constant. -/
def generalTriple (d : Half) : Reciprocal :=
  { dmd := zext32 d, mult := magicConstant (zext32 d), pow2 := false }

/-- What construction computes (R46): the power-of-two test first, then the zero test where the division would fail
(R48), then the general path; `none` is the zero divisor. -/
def buildReciprocal (d : Half) : Option Reciprocal :=
  if isPow2 d then some (powerOfTwoTriple d)
  else if d = 0#16 then none
  else some (generalTriple d)

/-- CONSTRUCT `d` (R46): legal whether or not a triple is held (R50); a zero divisor raises `DivideByZero` and writes
`FAULT` only (R48). -/
def execConstruct (d : Half) (s : State) : Result :=
  whenUnfaulted s fun u =>
    match buildReciprocal d with
    | some t => .next ((u.load t).respond .constructed)
    | none => .next (u.raise .divideByZero)

end Sys2Proof.Machine
end

