-- ==== Sys2Proof/Machine/Queries.lean ====
section
/-! DEFINITION. The four queries (41_queries.md R51 to R58). Each answers from the triple and writes no register. -/

namespace Sys2Proof.Machine

/-- `p = mul64(MULT, zext_32(n))`: the first product (R52, R54). -/
def firstProduct (t : Reciprocal) (n : Half) : DWord := mul64 t.mult (zext32 n)

/-- `frac = MULT *_32 zext_32(n)`: the fraction (R53, R55). -/
def fraction (t : Reciprocal) (n : Half) : Word := mul32 t.mult (zext32 n)

/-- `p2 = mul64(frac, DMD)`, its high half cut to 16 bits (R53, R54). -/
def remainderFromFraction (t : Reciprocal) (frac : Word) : Half := trunc16 (hi32 (mul64 frac t.dmd))

/-- `n & trunc_16(DMD)`: the remainder on the power-of-two path (R53). -/
def maskedRemainder (t : Reciprocal) (n : Half) : Half := n &&& trunc16 t.dmd

/-- `n >> MULT`: the quotient on the power-of-two path (R52). -/
def shiftedQuotient (t : Reciprocal) (n : Half) : Half := n >>> t.mult.toNat

/-- The `q` of DIV (R52). -/
def quotientOf (t : Reciprocal) (n : Half) : Half :=
  if t.pow2 then shiftedQuotient t n else trunc16 (hi32 (firstProduct t n))

/-- The `r` of MOD (R53). -/
def remainderOf (t : Reciprocal) (n : Half) : Half :=
  if t.pow2 then maskedRemainder t n else remainderFromFraction t (fraction t n)

/-- The `q` and `r` of DIVMOD (R54): the one first product is used twice, its high half as the quotient and its low
half as the fraction. -/
def divmodOf (t : Reciprocal) (n : Half) : Half × Half :=
  if t.pow2 then (shiftedQuotient t n, maskedRemainder t n)
  else
    let p := firstProduct t n
    (trunc16 (hi32 p), remainderFromFraction t (lo32 p))

/-- The `b` of DIVISIBLE (R55). -/
def divisibleOf (t : Reciprocal) (n : Half) : Bool :=
  if t.pow2 then decide (maskedRemainder t n = 0#16) else withinSlack (fraction t n) t.mult

/-- DIV `n` (R52). -/
def execDiv (n : Half) (s : State) : Result :=
  answerQuery s fun t => .quotient (quotientOf t n)

/-- MOD `n` (R53). -/
def execMod (n : Half) (s : State) : Result :=
  answerQuery s fun t => .remainder (remainderOf t n)

/-- DIVMOD `n` (R54). -/
def execDivmod (n : Half) (s : State) : Result :=
  answerQuery s fun t => .quotientRemainder (divmodOf t n).1 (divmodOf t n).2

/-- DIVISIBLE `n` (R55). -/
def execDivisible (n : Half) (s : State) : Result :=
  answerQuery s fun t => .divisibility (divisibleOf t n)

end Sys2Proof.Machine
end

