-- ==== Sys2Proof/Machine/Reserved.lean ====
section
/-! DEFINITION. The three reserved opcodes (30_encoding.md R37): each raises `IllegalCommand` (60_exceptions.md R74),
whatever `arg` and `VALID` are. -/

namespace Sys2Proof.Machine

/-- Raising `IllegalCommand`, which an unfaulted engine does for any reserved opcode (R74). -/
def raiseIllegal (s : State) : Result :=
  whenUnfaulted s fun u => .next (u.raise .illegalCommand)

/-- Opcode 5 (R37). -/
def execReserved5 (_arg : Half) (s : State) : Result := raiseIllegal s

/-- Opcode 6 (R37). -/
def execReserved6 (_arg : Half) (s : State) : Result := raiseIllegal s

/-- Opcode 7 (R37). -/
def execReserved7 (_arg : Half) (s : State) : Result := raiseIllegal s

end Sys2Proof.Machine
end

