-- ==== Sys2Proof/Machine/Dispatch.lean ====
section
/-! DEFINITION. The dispatch of a command to its meaning (30_encoding.md R42): one arm per constructor of Instr. -/

namespace Sys2Proof.Machine

def exec (i : Instr) (s : State) : Host.Outcome State Fault Refusal :=
  match i with
  | .construct d => Sys2Proof.Machine.execConstruct d s
  | .div n => Sys2Proof.Machine.execDiv n s
  | .mod n => Sys2Proof.Machine.execMod n s
  | .divmod n => Sys2Proof.Machine.execDivmod n s
  | .divisible n => Sys2Proof.Machine.execDivisible n s
  | .reserved5 arg => Sys2Proof.Machine.execReserved5 arg s
  | .reserved6 arg => Sys2Proof.Machine.execReserved6 arg s
  | .reserved7 arg => Sys2Proof.Machine.execReserved7 arg s

end Sys2Proof.Machine
end

