-- ==== Sys2Proof/Machine/Step.lean ====
section
/-! DEFINITION. One step of the machine: the engine meets the host's next move (30_encoding.md R32, R42;
70_reset_and_hazards.md R85, R94). -/

namespace Sys2Proof.Machine

/-- One step: a command presented is decoded and executed, a reset asserted clears the registers, and an engine that
meets nothing is idle (log entry 8). -/
def step (s : State) : Host.Outcome State Fault Refusal :=
  match meetNext s with
  | .idle => .next s
  | .reset u => .next u.hostReset
  | .command w u => exec (decode w) u

/-- `s` with the table's word presented as the host's next move. A number that is no command word cannot be
presented. -/
def State.withFetchWord (s : State) (nbits w : Nat) : State :=
  if WellFormed.wordNumber (tableNumber nbits w) then s.present (BitVec.ofNat 19 (tableNumber nbits w)) else s

end Sys2Proof.Machine
end

