-- ==== Sys2Proof/Machine/Assembly.lean ====
section
/-! DEFINITION. The textual form of programs (30_encoding.md R43, R44): a line is a mnemonic and an unsigned number,
`RESET`, or `.word` and five hex digits; `--` begins a comment. A program is the list of host moves its lines stand
for. Text is a list of characters. Log entry 14 names what R43 leaves open. -/

namespace Sys2Proof.Machine

/-- The five mnemonics (R43; there are no pseudo-instructions, R44). -/
inductive Mnemonic where
  | construct
  | div
  | mod
  | divmod
  | divisible
deriving DecidableEq, Repr

/-- A line that says something. -/
inductive AsmLine where
  /-- A mnemonic and its argument. -/
  | command (m : Mnemonic) (arg : Nat)
  /-- `.word`: a raw command word. -/
  | word (w : Nat)
  /-- `RESET`: the host asserts reset; no command word. -/
  | reset
deriving DecidableEq, Repr

/-- Why a line is no line of a program. -/
inductive AsmError where
  /-- The first word is no mnemonic, nor `RESET`, nor `.word`. -/
  | unknownWord
  /-- The argument is missing or is no unsigned number of the form R43 gives, or something follows it. -/
  | badArgument
  /-- The argument is not in 0 to 65 535, or the raw word not in 0 to `2^19 - 1`. -/
  | outOfRange
deriving DecidableEq, Repr

/-- The command a mnemonic and an argument name (R35). -/
def Mnemonic.instr : Mnemonic → Half → Instr
  | .construct, a => .construct a
  | .div, a => .div a
  | .mod, a => .mod a
  | .divmod, a => .divmod a
  | .divisible, a => .divisible a

/-- The numbers of a line are in range (R43, R34). -/
def AsmLine.wf : AsmLine → Bool
  | .command _ a => WellFormed.argNumber a
  | .word w => WellFormed.wordNumber w
  | .reset => true

/-- The host move a line stands for. -/
def assembleLine (l : AsmLine) : Except AsmError HostMove :=
  if l.wf then
    match l with
    | .command m a => .ok (.command (encode (m.instr (BitVec.ofNat 16 a))))
    | .word w => .ok (.command (BitVec.ofNat 19 w))
    | .reset => .ok .reset
  else .error .outOfRange

/-- The text up to the first `--`. -/
def stripComment : List Char → List Char
  | [] => []
  | '-' :: '-' :: _ => []
  | c :: cs => c :: stripComment cs

/-- The words of a text, which blanks separate; `acc` is the word being read, last character first. -/
def wordsFrom (acc : List Char) : List Char → List (List Char)
  | [] => if acc.isEmpty then [] else [acc.reverse]
  | c :: cs =>
    if c = ' ' || c = '\t' then
      if acc.isEmpty then wordsFrom [] cs else acc.reverse :: wordsFrom [] cs
    else wordsFrom (c :: acc) cs

/-- The value of a digit, decimal or hexadecimal. -/
def digitValue (c : Char) : Option Nat :=
  let k := c.toNat
  if 48 ≤ k ∧ k ≤ 57 then some (k - 48)
  else if 65 ≤ k ∧ k ≤ 70 then some (k - 55)
  else if 97 ≤ k ∧ k ≤ 102 then some (k - 87)
  else none

/-- The number a run of digits spells in a base, after the digits already read. -/
def digitsFrom (base acc : Nat) : List Char → Option Nat
  | [] => some acc
  | c :: cs =>
    match digitValue c with
    | none => none
    | some v => if v < base then digitsFrom base (acc * base + v) cs else none

/-- The number at least one digit spells in a base. -/
def readDigits (base : Nat) (ds : List Char) : Option Nat :=
  if ds.isEmpty then none else digitsFrom base 0 ds

/-- An unsigned number, decimal or `0x` hexadecimal (R43). -/
def readNumber : List Char → Option Nat
  | '0' :: 'x' :: ds => readDigits 16 ds
  | ds => readDigits 10 ds

/-- A raw word: `0x` and five hex digits (R43). -/
def readRawWord : List Char → Option Nat
  | '0' :: 'x' :: ds => if ds.length = 5 then readDigits 16 ds else none
  | _ => none

/-- The mnemonics as they are written, in capitals (R43). -/
def mnemonicTable : List (List Char × Mnemonic) :=
  [(['C', 'O', 'N', 'S', 'T', 'R', 'U', 'C', 'T'], .construct), (['D', 'I', 'V'], .div), (['M', 'O', 'D'], .mod),
    (['D', 'I', 'V', 'M', 'O', 'D'], .divmod), (['D', 'I', 'V', 'I', 'S', 'I', 'B', 'L', 'E'], .divisible)]

/-- An argument read from the words after the first one. -/
def readArgument (read : List Char → Option Nat) (make : Nat → AsmLine) : List (List Char) → Except AsmError AsmLine
  | [a] =>
    match read a with
    | some v => .ok (make v)
    | none => .error .badArgument
  | _ => .error .badArgument

/-- The line a list of words spells; a line with no word says nothing. -/
def parseWords : List (List Char) → Except AsmError (Option AsmLine)
  | [] => .ok none
  | w :: ws =>
    match mnemonicTable.lookup w with
    | some m => (readArgument readNumber (.command m) ws).map some
    | none =>
      if w = ['.', 'w', 'o', 'r', 'd'] then (readArgument readRawWord .word ws).map some
      else if w = ['R', 'E', 'S', 'E', 'T'] then
        if ws.isEmpty then .ok (some .reset) else .error .badArgument
      else .error .unknownWord

/-- The line a text spells. -/
def parseLine (text : List Char) : Except AsmError (Option AsmLine) :=
  parseWords (wordsFrom [] (stripComment text))

/-- The host moves of a program, top to bottom (R43). -/
def assemble : List (List Char) → Except AsmError (List HostMove)
  | [] => .ok []
  | text :: rest =>
    match parseLine text with
    | .error e => .error e
    | .ok none => assemble rest
    | .ok (some l) =>
      match assembleLine l, assemble rest with
      | .error e, _ => .error e
      | .ok _, .error e => .error e
      | .ok m, .ok ms => .ok (m :: ms)

/-- A run's start: the reset state with a program's moves to come (70_reset_and_hazards.md R94). -/
def State.start (ms : List HostMove) : State := { State.reset with moves := ms }

end Sys2Proof.Machine
end

