-- ==== Sys2Proof/Machine/Ports.lean ====
section
/-! DEFINITION. The ports of the block at the transaction level (30_encoding.md R33), read off the state, off what a
transaction answers and off its response. No port carries `DMD`, `MULT`, `POW2` or `VALID` (10_state.md R18). -/

namespace Sys2Proof.Machine

/-- `rst`: the host's next move is a reset. -/
def rst (s : State) : Bool := s.moves.head? == some .reset

/-- The command word the host presents, if it presents one. -/
def presentedWord (s : State) : Option CmdWord :=
  match s.moves with
  | .command w :: _ => some w
  | _ => none

/-- `cmd_valid`: the host presents a command word. -/
def cmdValid (s : State) : Bool := (presentedWord s).isSome

/-- `cmd_op`, which carries something only while a word is presented. -/
def cmdOp (s : State) : Option Opcode := (presentedWord s).map opField

/-- `cmd_arg`, which carries something only while a word is presented. -/
def cmdArg (s : State) : Option Half := (presentedWord s).map argField

/-- `cmd_ready`: 0 exactly when `FAULT != 0` and during reset. -/
def cmdReady (s : State) : Bool := s.fault.isNone && !rst s

/-- A command is taken when `cmd_valid` and `cmd_ready` are both 1. -/
def commandTaken (s : State) : Bool := cmdValid s && cmdReady s

/-- `fault_cause`: the value of `FAULT`, continuously (R14). -/
def faultCause (s : State) : BitVec 2 := causeCode s.fault

/-- The response that a transaction gives, begun in `s` and ending in the outcome `o`: the one that stands in the record
behind those given before (R39; log entry 3). A transaction that stops or refuses gives none. -/
def responseGiven (s : State) (o : Result) : Option Response :=
  match o with
  | .next t => t.responses[s.responses.length]?
  | .fault _ => none
  | .refused _ => none

/-- `rsp_valid`: a response is present (R33). -/
def rspValid (s : State) (o : Result) : Bool := (responseGiven s o).isSome

/-- The status of a response: `none` is `OK` (R40). -/
def Response.status : Response → Option Cause
  | .failed c => some c
  | .constructed => none
  | .quotient _ => none
  | .remainder _ => none
  | .quotientRemainder _ _ => none
  | .divisibility _ => none

/-- `rsp_status` (R40). -/
def rspStatus (r : Response) : BitVec 2 := causeCode r.status

/-- `rsp_q`, where it is meaningful (R41). -/
def rspQ : Response → Option Half
  | .quotient q => some q
  | .quotientRemainder q _ => some q
  | .constructed => none
  | .remainder _ => none
  | .divisibility _ => none
  | .failed _ => none

/-- `rsp_r`, where it is meaningful (R41). -/
def rspR : Response → Option Half
  | .remainder r => some r
  | .quotientRemainder _ r => some r
  | .constructed => none
  | .quotient _ => none
  | .divisibility _ => none
  | .failed _ => none

/-- `rsp_b`, where it is meaningful (R41). -/
def rspB : Response → Option Bool
  | .divisibility b => some b
  | .constructed => none
  | .quotient _ => none
  | .remainder _ => none
  | .quotientRemainder _ _ => none
  | .failed _ => none

end Sys2Proof.Machine
end

