-- ==== Sys2Proof/Safety.lean ====
section
/-! DEFINITION. The terms claims use: well-formed states (10_state.md R15), what of a state is the engine's
registers, the kinds of command, and the end of a run (70_reset_and_hazards.md R94). -/

namespace Sys2Proof.Machine

/-- A well-formed state (R15): a held triple is one that a construction leaves. -/
abbrev State.WellFormed (s : State) : Prop := s.valid = true → s.recip.wf = true

/-- The two states agree in all five registers of the engine. -/
abbrev State.SameRegisters (s t : State) : Prop := s.recip = t.recip ∧ s.valid = t.valid ∧ s.fault = t.fault

/-- A general-path divisor: neither zero nor a power of two (40_construct.md R49). -/
abbrev GeneralDivisor (d : Half) : Prop := d ≠ 0#16 ∧ ∀ k, k < 16 → d.toNat ≠ 2 ^ k

/-- The engine can answer a query: no fault, and a triple that a construction left (41_queries.md R51). -/
abbrev State.Ready (s : State) : Prop := s.fault = none ∧ s.valid = true ∧ s.recip.wf = true

/-- The four queries (41_queries.md). -/
def isQuery : Instr → Bool
  | .construct _ => false
  | .div _ => true
  | .mod _ => true
  | .divmod _ => true
  | .divisible _ => true
  | .reserved5 _ => false
  | .reserved6 _ => false
  | .reserved7 _ => false

/-- The three reserved opcodes (30_encoding.md R37). -/
def isReserved : Instr → Bool
  | .construct _ => false
  | .div _ => false
  | .mod _ => false
  | .divmod _ => false
  | .divisible _ => false
  | .reserved5 _ => true
  | .reserved6 _ => true
  | .reserved7 _ => true

/-- The host move is a command word. -/
def isCommand : HostMove → Bool
  | .command _ => true
  | .reset => false

/-- A run is finished: every move of the sequence has been made, every command word taken and answered (R94). -/
abbrev State.Finished (s : State) : Prop := s.moves = [] ∧ s.untaken = []

/-- A run is finished without fault (R94). -/
abbrev State.FinishedWithoutFault (s : State) : Prop := s.Finished ∧ s.fault = none

/-- A run from reset under a list of host moves: `k` steps that all succeeded lead to `s`. -/
def Reaches (ms : List HostMove) (k : Nat) (s : State) : Prop :=
  Host.Core.run Sys2Proof.core k (State.start ms) = .next s

end Sys2Proof.Machine
end

