-- ==== Sys2Proof/Certificates/Slice0/Obligations.lean ====
section
/-! DEFINITION. The statements for the provers. Each docstring names the rules of spec/ it formalises. -/

open Sys2Proof Sys2Proof.Machine

/-! ### Encoding -/

/-- R34: the two fields of a command word, and the word as `op * 65536 + arg`. -/
def Obligations.CommandWordFields : Prop :=
  (∀ w : CmdWord, (opField w).toNat = w.toNat / 65536 ∧ (argField w).toNat = w.toNat % 65536 ∧
    w.toNat = (opField w).toNat * 65536 + (argField w).toNat ∧ w.toNat < 2 ^ 19) ∧
  (∀ i : Instr, (encode i).toNat = (opcodeOf i).toNat * 65536 + i.operand.toNat)

/-- R35: the row whose match equals `w & 0x70000` is the command, with `arg` its operand; the eight rows cover every
word. -/
def Obligations.OpcodeMapByMask : Prop :=
  ∀ (w : CmdWord) (a : Half), a = BitVec.ofNat 16 w.toNat →
    (w &&& 0x70000#19 = 0x00000#19 → decode w = .construct a) ∧
    (w &&& 0x70000#19 = 0x10000#19 → decode w = .div a) ∧
    (w &&& 0x70000#19 = 0x20000#19 → decode w = .mod a) ∧
    (w &&& 0x70000#19 = 0x30000#19 → decode w = .divmod a) ∧
    (w &&& 0x70000#19 = 0x40000#19 → decode w = .divisible a) ∧
    (w &&& 0x70000#19 = 0x50000#19 → decode w = .reserved5 a) ∧
    (w &&& 0x70000#19 = 0x60000#19 → decode w = .reserved6 a) ∧
    (w &&& 0x70000#19 = 0x70000#19 → decode w = .reserved7 a) ∧
    (w &&& 0x70000#19 = 0x00000#19 ∨ w &&& 0x70000#19 = 0x10000#19 ∨ w &&& 0x70000#19 = 0x20000#19 ∨
      w &&& 0x70000#19 = 0x30000#19 ∨ w &&& 0x70000#19 = 0x40000#19 ∨ w &&& 0x70000#19 = 0x50000#19 ∨
      w &&& 0x70000#19 = 0x60000#19 ∨ w &&& 0x70000#19 = 0x70000#19)

/-- R34 to R36: decoding the word of any command gives the command back, with every operand at every value. -/
def Obligations.DecodeOfEncodeIsIdentity : Prop :=
  ∀ i : Instr, i.wf = true ∧ decode (encode i) = i

/-- R34, R35: every word is the word of the command it spells, and of no other. -/
def Obligations.EveryWordSpellsExactlyOneCommand : Prop :=
  ∀ w : CmdWord, encode (decode w) = w ∧ ∀ i : Instr, encode i = w → i = decode w

/-- 95_test_vectors.md section 5 and R43: words written out from the encoding decode to what they stand for. -/
def Obligations.SampleWordsDecode : Prop :=
  decode 0b0000000000000000111#19 = .construct 7#16 ∧ decode 0b0010000000001100100#19 = .div 100#16 ∧
  decode 0b0101111111111111111#19 = .mod 65535#16 ∧ decode 0b0110000000001100100#19 = .divmod 100#16 ∧
  decode 0b1000000000000011001#19 = .divisible 25#16 ∧ decode 0b1010000000000000000#19 = .reserved5 0#16 ∧
  decode 0b1101010101111001101#19 = .reserved6 43981#16 ∧ decode 0b1111111111111111111#19 = .reserved7 65535#16

/-- R34, R38: a number is read as a command exactly when it is below `2^19`. -/
def Obligations.WiderNumbersAreNoCommand : Prop :=
  ∀ w : Nat, (w < 2 ^ 19 → decodeNumber w = .ok (decode (BitVec.ofNat 19 w))) ∧
    (2 ^ 19 ≤ w → decodeNumber w = .error .notACommandWord)

/-! ### The step -/

/-- R28, R42: a step of an unfaulted engine takes the word presented first and is the execution of the command it
spells; the other moves stay in their order. -/
def Obligations.StepRunsThePresentedCommand : Prop :=
  ∀ (s : State) (w : CmdWord) (ms : List HostMove), s.fault = none → s.moves = .command w :: ms →
    step s = exec (decode w) { s with moves := ms }

/-- R85, R86, R33: a reset asserted next takes effect from any state, faulted or not: `VALID` and `FAULT` are 0, the
registers are those of the reset state whatever they were, no response is given, and the engine is ready again once
reset is released. That the triple's registers are those of the model's reset state is the model's choice (log entry
1). R33 makes `cmd_ready` 0 during reset; that this is while the host's next move is a reset is the model's inference
(log entry 18). -/
def Obligations.ResetTakesEffectInAnyState : Prop :=
  ∀ (s : State) (ms : List HostMove), s.moves = .reset :: ms → cmdReady s = false ∧
    ∃ t, step s = .next t ∧ t.valid = false ∧ t.fault = none ∧ t.SameRegisters State.reset ∧
      t.moves = ms ∧ t.responses = s.responses ∧ t.untaken = s.untaken ∧ (cmdReady t = !rst t)

/-- R77, R42: while `FAULT != 0` no command has a step: `cmd_ready` is 0, a word presented is not taken, changes
nothing and gets no response. -/
def Obligations.FaultedEngineTakesNoCommand : Prop :=
  ∀ (s : State) (c : Cause), s.fault = some c →
    cmdReady s = false ∧ commandTaken s = false ∧
    (∀ i : Instr, exec i s = .fault (.engineFaulted c)) ∧
    (∀ w ms, s.moves = .command w :: ms → .reset ∉ ms → step s = .fault (.engineFaulted c))

/-- R78: the only event that clears `FAULT` is reset, which also clears `VALID`. That one step goes past the words
presented before that reset, records them as untaken and takes the reset is the model's choice (log entry 5), and so is
that a step without a move exists, in which the faulted engine stays as it is (log entry 8). -/
def Obligations.OnlyResetLeavesTheFaultedState : Prop :=
  (∀ (s t : State) (c : Cause), s.fault = some c → step s = .next t →
    (s.moves = [] ∧ t = s) ∨
    (∃ ws ms, s.moves = ws.map .command ++ .reset :: ms ∧ t.fault = none ∧ t.valid = false ∧ t.moves = ms ∧
      t.responses = s.responses ∧ t.untaken = s.untaken ++ ws)) ∧
  (∀ (s : State) (c : Cause) (ws : List CmdWord) (ms : List HostMove), s.fault = some c →
    s.moves = ws.map .command ++ .reset :: ms →
    ∃ t, step s = .next t ∧ t.fault = none ∧ t.valid = false ∧
      ∀ i, isQuery i = true → exec i t = .next (t.raise .notConstructed))

/-- 10_state.md R21, 60_exceptions.md R82: an engine that meets no move keeps its whole state. That such a step exists
is the model's choice (log entry 8). -/
def Obligations.IdleEngineKeepsItsState : Prop :=
  ∀ s : State, s.moves = [] → step s = .next s

/-- 30_encoding.md R34, R42: a table word presented to the reset machine is the first command it runs. How a word
comes to be presented is the model's choice (log entry 2). -/
def Obligations.PresentedTableWordRunsFirst : Prop :=
  ∀ w : Nat, w < 2 ^ 19 → decodeTableWord 24 w = some (decode (BitVec.ofNat 19 w)) ∧
    step (State.reset.withFetchWord 24 w) = exec (decode (BitVec.ofNat 19 w)) State.reset

/-! ### Construction -/

/-- R47: for the sixteen powers of two, 1 included, CONSTRUCT sets shift and mask, and no other divisor takes that
path. -/
def Obligations.ConstructPowerOfTwo : Prop :=
  (∀ (s : State) (k : Nat), s.fault = none → k < 16 →
    exec (.construct (BitVec.ofNat 16 (2 ^ k))) s = .next
      { s with
        recip := { dmd := BitVec.ofNat 32 (2 ^ k - 1), mult := BitVec.ofNat 32 k, pow2 := true }
        valid := true
        responses := s.responses ++ [.constructed] }) ∧
  (∀ (s t : State) (d : Half), exec (.construct d) s = .next t → t.fault = none →
    (t.recip.pow2 = true ↔ ∃ k, k < 16 ∧ d.toNat = 2 ^ k))

/-- R49: for every other nonzero divisor CONSTRUCT holds the divisor and `floor((2^32 - 1) / d) + 1`, and the addition
of 1 never wraps. -/
def Obligations.ConstructGeneralDivisor : Prop :=
  ∀ (s : State) (d : Half), s.fault = none → GeneralDivisor d →
    (2 ^ 32 - 1) / d.toNat ≤ 1431655765 ∧
    exec (.construct d) s = .next
      { s with
        recip := { dmd := BitVec.ofNat 32 d.toNat, mult := BitVec.ofNat 32 ((2 ^ 32 - 1) / d.toNat + 1), pow2 := false }
        valid := true
        responses := s.responses ++ [.constructed] }

/-- R48: CONSTRUCT 0 raises `DivideByZero`: it writes `FAULT` and nothing else, its response has that status and no
result field, and the engine is stuck. -/
def Obligations.ConstructZeroFaults : Prop :=
  ∀ s : State, s.fault = none →
    ∃ t, exec (.construct 0#16) s = .next t ∧
      t = { s with fault := some .divideByZero, responses := s.responses ++ [.failed .divideByZero] } ∧
      faultCause t = 1#2 ∧ ∀ i : Instr, exec i t = .fault (.engineFaulted .divideByZero)

/-- R8: what `ispow2` and `ctz16` compute. -/
def Obligations.PowerOfTwoTestAndTrailingZeros : Prop :=
  (∀ d : Half, isPow2 d = true ↔ ∃ k, k < 16 ∧ d.toNat = 2 ^ k) ∧
  (∀ d : Half, isPow2 d = true ↔ d ≠ 0#16 ∧ d &&& (d - 1#16) = 0#16) ∧
  (∀ d : Half, d ≠ 0#16 → ctz16 d < 16 ∧ d.getLsbD (ctz16 d) = true ∧ ∀ j, j < ctz16 d → d.getLsbD j = false) ∧
  (∀ k, k < 16 → ctz16 (BitVec.ofNat 16 (2 ^ k)) = k)

/-- R50: CONSTRUCT does not test `VALID`: from any two unfaulted states a nonzero divisor leaves the same registers,
with `VALID` 1, and every later query is answered from the new triple; a zero divisor over a held triple leaves it in
the registers, no longer usable. -/
def Obligations.ReconstructionReplacesTheTriple : Prop :=
  (∀ (s u : State) (d : Half), s.fault = none → u.fault = none → d ≠ 0#16 →
    ∃ s' u', exec (.construct d) s = .next s' ∧ exec (.construct d) u = .next u' ∧
      s'.SameRegisters u' ∧ s'.valid = true ∧ s'.fault = none ∧ some s'.recip = buildReciprocal d ∧
      ∀ i, isQuery i = true → ∃ r, exec i s' = .next (s'.respond r) ∧ exec i u' = .next (u'.respond r)) ∧
  (∀ s : State, s.fault = none → s.valid = true →
    ∃ t, exec (.construct 0#16) s = .next t ∧ t.recip = s.recip ∧ t.valid = true ∧
      ∀ i : Instr, exec i t = .fault (.engineFaulted .divideByZero))

/-- R26: two CONSTRUCTs of the same nonzero divisor leave the same registers as one. -/
def Obligations.ConstructIsIdempotent : Prop :=
  ∀ (s : State) (d : Half), s.fault = none → d ≠ 0#16 →
    ∃ t u, exec (.construct d) s = .next t ∧ exec (.construct d) t = .next u ∧ t.SameRegisters u

/-! ### Arithmetic of the general path and of the power-of-two path -/

/-- R61: the magic constant is `floor((2^32 - 1) / d) + 1 = floor(2^32 / d) + 1 = ceil(2^32 / d)`, with its bounds. -/
def Obligations.MagicConstantIsTheCeiling : Prop :=
  ∀ d : Half, GeneralDivisor d →
    (magicConstant (zext32 d)).toNat = (2 ^ 32 - 1) / d.toNat + 1 ∧
    (2 ^ 32 - 1) / d.toNat + 1 = 2 ^ 32 / d.toNat + 1 ∧
    2 ^ 32 / d.toNat + 1 = (2 ^ 32 + d.toNat - 1) / d.toNat ∧
    65538 ≤ (magicConstant (zext32 d)).toNat ∧ (magicConstant (zext32 d)).toNat ≤ 1431655766

/-- R62: the excess `e = M * d - 2^32` is between 1 and `d - 1`, and `e * n` stays below `2^32`. -/
def Obligations.ExcessStaysBelowTheDivisor : Prop :=
  ∀ d : Half, GeneralDivisor d →
    ∃ e, (magicConstant (zext32 d)).toNat * d.toNat = 2 ^ 32 + e ∧ 1 ≤ e ∧ e ≤ d.toNat - 1 ∧ e ≤ 65534 ∧
      ∀ n : Half, e * n.toNat ≤ 65534 * 65535 ∧ e * n.toNat < 2 ^ 32

/-- R63: the first product splits into the quotient and the fraction, and no smaller constant does for every
dividend. -/
def Obligations.FirstProductSplitsIntoQuotientAndFraction : Prop :=
  ∀ d : Half, GeneralDivisor d →
    (∀ n : Half, ∃ e L, (magicConstant (zext32 d)).toNat * d.toNat = 2 ^ 32 + e ∧ L < 2 ^ 32 ∧
      (magicConstant (zext32 d)).toNat * n.toNat = 2 ^ 32 * (n.toNat / d.toNat) + L ∧
      L * d.toNat = 2 ^ 32 * (n.toNat % d.toNat) + e * n.toNat ∧
      (hi32 (firstProduct (generalTriple d) n)).toNat = n.toNat / d.toNat ∧
      (lo32 (firstProduct (generalTriple d) n)).toNat = L ∧
      (fraction (generalTriple d) n).toNat = L ∧
      (quotientOf (generalTriple d) n).toNat = n.toNat / d.toNat) ∧
    (∀ M', M' < (magicConstant (zext32 d)).toNat → M' * d.toNat / 2 ^ 32 = 0)

/-- R64: the second product's high half is the remainder. -/
def Obligations.SecondProductGivesTheRemainder : Prop :=
  ∀ d n : Half, GeneralDivisor d →
    ∃ e, (magicConstant (zext32 d)).toNat * d.toNat = 2 ^ 32 + e ∧ e * n.toNat < 2 ^ 32 ∧
      (fraction (generalTriple d) n).toNat * d.toNat = 2 ^ 32 * (n.toNat % d.toNat) + e * n.toNat ∧
      (hi32 (mul64 (fraction (generalTriple d) n) (zext32 d))).toNat = n.toNat % d.toNat ∧
      (remainderOf (generalTriple d) n).toNat = n.toNat % d.toNat ∧
      (divmodOf (generalTriple d) n).2.toNat = n.toNat % d.toNat

/-- R65: the fraction is at most the constant less one exactly when the remainder is 0. -/
def Obligations.FractionDecidesDivisibility : Prop :=
  ∀ d n : Half, GeneralDivisor d →
    ((fraction (generalTriple d) n).toNat ≤ (magicConstant (zext32 d)).toNat - 1 ↔ n.toNat % d.toNat = 0) ∧
    (divisibleOf (generalTriple d) n = true ↔ d.toNat ∣ n.toNat)

/-- R67: shift and mask give the exact quotient, remainder and divisibility for all sixteen powers of two. -/
def Obligations.PowerOfTwoPathIsExact : Prop :=
  ∀ (s t : State) (k : Nat) (n : Half), k < 16 → exec (.construct (BitVec.ofNat 16 (2 ^ k))) s = .next t →
    t.recip.mult.toNat = k ∧ t.recip.dmd.toNat = 2 ^ k - 1 ∧
    (quotientOf t.recip n).toNat = n.toNat / 2 ^ k ∧ (remainderOf t.recip n).toNat = n.toNat % 2 ^ k ∧
    (divmodOf t.recip n).1.toNat = n.toNat / 2 ^ k ∧ (divmodOf t.recip n).2.toNat = n.toNat % 2 ^ k ∧
    (divisibleOf t.recip n = true ↔ 2 ^ k ∣ n.toNat)

/-- R68: on the general path the two cuts to 16 bits drop no set bit; the greatest values are reached. -/
def Obligations.TruncationsLoseNothing : Prop :=
  (∀ d n : Half, GeneralDivisor d →
    (hi32 (firstProduct (generalTriple d) n)).toNat ≤ 21845 ∧
    (trunc16 (hi32 (firstProduct (generalTriple d) n))).toNat = (hi32 (firstProduct (generalTriple d) n)).toNat ∧
    (hi32 (mul64 (fraction (generalTriple d) n) (zext32 d))).toNat ≤ d.toNat - 1 ∧
    (hi32 (mul64 (fraction (generalTriple d) n) (zext32 d))).toNat ≤ 65534 ∧
    (trunc16 (hi32 (mul64 (fraction (generalTriple d) n) (zext32 d)))).toNat =
      (hi32 (mul64 (fraction (generalTriple d) n) (zext32 d))).toNat) ∧
  (quotientOf (generalTriple 3#16) 65535#16).toNat = 21845 ∧
  (remainderOf (generalTriple 65535#16) 65534#16).toNat = 65534

/-- R60: every operation of its table is exact, since its result fits: `d - 1` and the division and the addition of 1
of CONSTRUCT, the two products, the two cuts to 16 bits, `MULT - 1`, and the shift. The one operation that wraps is the
32-bit product that forms the fraction, and it does wrap. With the ranges of R59 for the products and the remainder. -/
def Obligations.IntermediateValuesStayInRange : Prop :=
  (∀ d : Half, d ≠ 0#16 → (d - 1#16).toNat = d.toNat - 1) ∧
  (∀ d : Half, GeneralDivisor d →
    (udiv32 Config.magicDividend (zext32 d)).toNat = (2 ^ 32 - 1) / d.toNat ∧
    (udiv32 Config.magicDividend (zext32 d)).toNat ≤ 1431655765 ∧
    (magicConstant (zext32 d)).toNat = (udiv32 Config.magicDividend (zext32 d)).toNat + 1) ∧
  (∀ (t : Reciprocal) (n : Half), t.wf = true →
    (t.pow2 = false →
      (firstProduct t n).toNat = t.mult.toNat * n.toNat ∧ (firstProduct t n).toNat < 2 ^ 47 ∧
      (mul64 (fraction t n) t.dmd).toNat = (fraction t n).toNat * t.dmd.toNat ∧
      (mul64 (fraction t n) t.dmd).toNat < 2 ^ 48 ∧
      (trunc16 (hi32 (firstProduct t n))).toNat = (hi32 (firstProduct t n)).toNat ∧
      (trunc16 (hi32 (mul64 (fraction t n) t.dmd))).toNat = (hi32 (mul64 (fraction t n) t.dmd)).toNat ∧
      (t.mult - 1#32).toNat = t.mult.toNat - 1 ∧ 65538 ≤ t.mult.toNat ∧
      (fraction t n).toNat = t.mult.toNat * n.toNat % 2 ^ 32) ∧
    (t.pow2 = true → t.mult.toNat < 16 ∧ (shiftedQuotient t n).toNat = n.toNat / 2 ^ t.mult.toNat ∧
      (remainderOf t n).toNat ≤ 32767)) ∧
  (∃ (t : Reciprocal) (n : Half), t.wf = true ∧ t.pow2 = false ∧ (fraction t n).toNat ≠ t.mult.toNat * n.toNat)

/-! ### Queries -/

/-- R52: DIV answers the quotient, computed by the shift or by the high half of the product, and writes no register. -/
def Obligations.DivAnswersTheQuotient : Prop :=
  ∀ (s : State) (n : Half), (encode (.div n)).toNat = 0x10000 + n.toNat ∧
    (s.Ready → ∃ q : Half, exec (.div n) s = .next { s with responses := s.responses ++ [.quotient q] } ∧
      q.toNat = (if s.recip.pow2 then n.toNat / 2 ^ s.recip.mult.toNat
        else s.recip.mult.toNat * n.toNat / 2 ^ 32 % 2 ^ 16) ∧
      q.toNat = n.toNat / s.recip.divisor)

/-- R53: MOD answers the remainder, computed by the mask or by the wrapped fraction and the second product, and writes
no register. -/
def Obligations.ModAnswersTheRemainder : Prop :=
  ∀ (s : State) (n : Half), (encode (.mod n)).toNat = 0x20000 + n.toNat ∧
    (s.Ready → ∃ r : Half, exec (.mod n) s = .next { s with responses := s.responses ++ [.remainder r] } ∧
      r.toNat = (if s.recip.pow2 then n.toNat &&& s.recip.dmd.toNat
        else s.recip.mult.toNat * n.toNat % 2 ^ 32 * s.recip.dmd.toNat / 2 ^ 32 % 2 ^ 16) ∧
      r.toNat = n.toNat % s.recip.divisor)

/-- R54: DIVMOD answers quotient and remainder together and writes no register. -/
def Obligations.DivmodAnswersBoth : Prop :=
  ∀ (s : State) (n : Half), (encode (.divmod n)).toNat = 0x30000 + n.toNat ∧
    (s.Ready → ∃ q r : Half,
      exec (.divmod n) s = .next { s with responses := s.responses ++ [.quotientRemainder q r] } ∧
      q.toNat = (if s.recip.pow2 then n.toNat / 2 ^ s.recip.mult.toNat
        else s.recip.mult.toNat * n.toNat / 2 ^ 32 % 2 ^ 16) ∧
      r.toNat = (if s.recip.pow2 then n.toNat &&& s.recip.dmd.toNat
        else s.recip.mult.toNat * n.toNat % 2 ^ 32 * s.recip.dmd.toNat / 2 ^ 32 % 2 ^ 16) ∧
      q.toNat * s.recip.divisor + r.toNat = n.toNat ∧ r.toNat < s.recip.divisor)

/-- R55: DIVISIBLE answers whether the divisor divides the dividend, by the mask or by the unsigned comparison, and
writes no register. -/
def Obligations.DivisibleAnswersWhetherItDivides : Prop :=
  ∀ (s : State) (n : Half), (encode (.divisible n)).toNat = 0x40000 + n.toNat ∧
    (s.Ready → ∃ b : Bool, exec (.divisible n) s = .next { s with responses := s.responses ++ [.divisibility b] } ∧
      (b = true ↔ if s.recip.pow2 then n.toNat &&& s.recip.dmd.toNat = 0
        else s.recip.mult.toNat * n.toNat % 2 ^ 32 ≤ s.recip.mult.toNat - 1) ∧
      (b = true ↔ s.recip.divisor ∣ n.toNat))

/-- R73: a query taken while `VALID == 0` raises `NotConstructed`. -/
def Obligations.QueryBeforeConstructionFaults : Prop :=
  ∀ (s : State) (i : Instr), isQuery i = true → s.fault = none → s.valid = false →
    exec i s = .next
      { s with fault := some .notConstructed, responses := s.responses ++ [.failed .notConstructed] }

/-- R37, R74: a word whose opcode is 5, 6 or 7 raises `IllegalCommand`, whatever `arg` and `VALID` are. -/
def Obligations.ReservedOpcodesRaiseIllegalCommand : Prop :=
  (∀ w : CmdWord, 5 * 65536 ≤ w.toNat ↔ isReserved (decode w) = true) ∧
  (∀ (s : State) (a : Half) (i : Instr), s.fault = none → i = .reserved5 a ∨ i = .reserved6 a ∨ i = .reserved7 a →
    exec i s = .next
      { s with fault := some .illegalCommand, responses := s.responses ++ [.failed .illegalCommand] })

/-- R15, 93_implementation_defined.md U7: a query is refused exactly when an unfaulted engine holds a triple that no
construction leaves; no other command ever is. -/
def Obligations.OnlyIllFormedTriplesAreRefused : Prop :=
  ∀ (s : State) (i : Instr) (r : Refusal), exec i s = .refused r ↔
    r = .illFormedReciprocal ∧ isQuery i = true ∧ s.fault = none ∧ s.valid = true ∧ s.recip.wf = false

/-- R56: the `q` of DIVMOD is the `q` of DIV and its `r` the `r` of MOD. -/
def Obligations.DivmodAgreesWithDivAndMod : Prop :=
  ∀ (s : State) (n : Half), s.Ready → ∃ q r : Half,
    exec (.div n) s = .next (s.respond (.quotient q)) ∧ exec (.mod n) s = .next (s.respond (.remainder r)) ∧
    exec (.divmod n) s = .next (s.respond (.quotientRemainder q r))

/-- R57: divisor 1 is neither checked nor faulted on: DIV returns `n`, DIVMOD returns `n` and 0. -/
def Obligations.DivisorOneIsExact : Prop :=
  ∀ (s : State) (n : Half), s.fault = none → ∃ t, exec (.construct 1#16) s = .next t ∧
    t.recip = { dmd := 0#32, mult := 0#32, pow2 := true } ∧ t.fault = none ∧
    exec (.div n) t = .next (t.respond (.quotient n)) ∧
    exec (.divmod n) t = .next (t.respond (.quotientRemainder n 0#16))

/-- R69: from any unfaulted state, after CONSTRUCT `d` every query responds with the exact quotient, remainder and
divisibility, for every nonzero divisor and every dividend. -/
def Obligations.QueriesAreExactAfterConstruct : Prop :=
  ∀ (s : State) (d n : Half), s.fault = none → d ≠ 0#16 → ∃ t, exec (.construct d) s = .next t ∧
    t.responses = s.responses ++ [.constructed] ∧
    (∃ q : Half, exec (.div n) t = .next (t.respond (.quotient q)) ∧ q.toNat = n.toNat / d.toNat) ∧
    (∃ r : Half, exec (.mod n) t = .next (t.respond (.remainder r)) ∧ r.toNat = n.toNat % d.toNat) ∧
    (∃ q r : Half, exec (.divmod n) t = .next (t.respond (.quotientRemainder q r)) ∧
      q.toNat = n.toNat / d.toNat ∧ r.toNat = n.toNat % d.toNat) ∧
    (∃ b : Bool, exec (.divisible n) t = .next (t.respond (.divisibility b)) ∧
      (b = true ↔ n.toNat % d.toNat = 0))

/-- R66: the quotient and remainder returned after CONSTRUCT `d` satisfy the division identity, `d == 1` included. -/
def Obligations.DivisionIdentity : Prop :=
  ∀ (s : State) (d n : Half), s.fault = none → d ≠ 0#16 → ∃ (t : State) (q r : Half),
    exec (.construct d) s = .next t ∧ exec (.div n) t = .next (t.respond (.quotient q)) ∧
    exec (.mod n) t = .next (t.respond (.remainder r)) ∧ q.toNat * d.toNat + r.toNat = n.toNat ∧ r.toNat < d.toNat

/-- R70: the results at the corners. -/
def Obligations.CornerResults : Prop :=
  (∀ (d n : Half) (t : Reciprocal), buildReciprocal d = some t →
    (n = 0#16 → quotientOf t n = 0#16 ∧ remainderOf t n = 0#16 ∧ divisibleOf t n = true) ∧
    (n ≠ 0#16 → n.toNat < d.toNat → quotientOf t n = 0#16 ∧ remainderOf t n = n ∧ divisibleOf t n = false) ∧
    (n = d → quotientOf t n = 1#16 ∧ remainderOf t n = 0#16 ∧ divisibleOf t n = true) ∧
    (d = 1#16 → quotientOf t n = n ∧ remainderOf t n = 0#16 ∧ divisibleOf t n = true) ∧
    (n = 65535#16 → d = 2#16 → quotientOf t n = 32767#16 ∧ remainderOf t n = 1#16 ∧ divisibleOf t n = false) ∧
    (n = 65535#16 → d = 32768#16 → quotientOf t n = 1#16 ∧ remainderOf t n = 32767#16 ∧ divisibleOf t n = false) ∧
    (n = 65535#16 → d = 3#16 → quotientOf t n = 21845#16 ∧ remainderOf t n = 0#16 ∧ divisibleOf t n = true) ∧
    (quotientOf t n).toNat ≤ n.toNat) ∧
  (∀ d : Half, buildReciprocal d = none ↔ d = 0#16)

/-- R58: the response of a query is a function of the triple and the dividend alone: two ready states with the same
triple give it the same response, whatever else differs, and neither changes otherwise. -/
def Obligations.QueryResponseDependsOnTheTripleAlone : Prop :=
  ∀ (s u : State) (i : Instr), isQuery i = true → s.Ready → u.Ready → s.recip = u.recip →
    ∃ r, exec i s = .next (s.respond r) ∧ exec i u = .next (u.respond r)

/-- R30: while no requester constructs, every interleaving of queries gives each of them the same response: one
response function answers every list of queries, in any order. -/
def Obligations.EveryInterleavingOfQueriesAnswersAlike : Prop :=
  ∀ (s : State), s.Ready → ∃ answer : Instr → Response, ∀ (qs : List Instr) (ms : List HostMove),
    (∀ i ∈ qs, isQuery i = true) →
    Host.Core.run Sys2Proof.core qs.length { s with moves := qs.map (fun i => .command (encode i)) ++ ms } =
      .next { s with moves := ms, responses := s.responses ++ qs.map answer }

/-! ### Well-formed states -/

/-- R15: every step keeps a state well formed, from any well-formed state and whatever the host does. -/
def Obligations.StepKeepsStatesWellFormed : Prop :=
  ∀ s t : State, s.WellFormed → step s = .next t → t.WellFormed

/-- R22, R15, R33: the reset state has `VALID == 0` and `FAULT == 0`, is ready for a command, since the host asserts no
reset there (log entry 18), and is well formed. -/
def Obligations.ResetStateIsWellFormed : Prop :=
  State.reset.WellFormed ∧ State.reset.valid = false ∧ State.reset.fault = none ∧ faultCause State.reset = 0#2 ∧
    cmdReady State.reset = true

/-- R15: every state reached from reset by any sequence of commands and resets satisfies the invariant, and the
divisor a valid one stands for is recoverable and never 0. -/
def Obligations.ReachableStatesAreWellFormed : Prop :=
  ∀ (ms : List HostMove) (k : Nat) (s : State), Reaches ms k s →
    (s.valid = false ∨
      (s.valid = true ∧ s.recip.pow2 = true ∧
        ∃ j, j ≤ 15 ∧ s.recip.mult.toNat = j ∧ s.recip.dmd.toNat = 2 ^ j - 1) ∨
      (s.valid = true ∧ s.recip.pow2 = false ∧ 3 ≤ s.recip.dmd.toNat ∧ s.recip.dmd.toNat ≤ 65535 ∧
        (∀ j, j < 16 → s.recip.dmd.toNat ≠ 2 ^ j) ∧
        s.recip.mult.toNat = (2 ^ 32 - 1) / s.recip.dmd.toNat + 1)) ∧
    (s.valid = true → s.recip.divisor ≠ 0 ∧
      buildReciprocal (BitVec.ofNat 16 s.recip.divisor) = some s.recip)

/-- R19: the value ranges of the 32-bit registers in a well-formed valid state. -/
def Obligations.RegisterRangesOfValidStates : Prop :=
  ∀ s : State, s.WellFormed → s.valid = true →
    (s.recip.pow2 = true → s.recip.mult.toNat ≤ 15 ∧ s.recip.dmd.toNat ≤ 32767) ∧
    (s.recip.pow2 = false → 3 ≤ s.recip.dmd.toNat ∧ s.recip.dmd.toNat ≤ 65535 ∧
      65538 ≤ s.recip.mult.toNat ∧ s.recip.mult.toNat ≤ 1431655766 ∧ s.recip.mult.msb = false)

/-- R17: the triple and its tagged-union view determine each other. -/
def Obligations.TaggedUnionViewIsOneToOne : Prop :=
  (∀ t : Reciprocal, t.view.triple = t) ∧ (∀ v : ReciprocalView, v.triple.view = v)

/-! ### Frames and whole-machine rules -/

/-- R16: what each kind of command writes and leaves, when it answers a next state. -/
def Obligations.CommandsWriteOnlyWhatTheTableSays : Prop :=
  ∀ (s t : State) (i : Instr), exec i s = .next t →
    s.fault = none ∧ t.moves = s.moves ∧ t.untaken = s.untaken ∧ (∃ r, t.responses = s.responses ++ [r]) ∧
    (∀ d, i = .construct d → d ≠ 0#16 → some t.recip = buildReciprocal d ∧ t.valid = true ∧ t.fault = none) ∧
    (i = .construct 0#16 → t.recip = s.recip ∧ t.valid = s.valid ∧ t.fault = some .divideByZero) ∧
    (isQuery i = true → s.valid = true → t.recip = s.recip ∧ t.valid = s.valid ∧ t.fault = none) ∧
    (isQuery i = true → s.valid = false → t.recip = s.recip ∧ t.valid = s.valid ∧ t.fault = some .notConstructed) ∧
    (isReserved i = true → t.recip = s.recip ∧ t.valid = s.valid ∧ t.fault = some .illegalCommand)

/-- R10 to R13: the triple and `VALID` change only by a CONSTRUCT of a nonzero divisor taken by an unfaulted engine, or
by a reset. -/
def Obligations.OnlyConstructAndResetWriteTheTriple : Prop :=
  ∀ s t : State, step s = .next t → t.recip ≠ s.recip ∨ t.valid ≠ s.valid →
    (∃ (d : Half) (ms : List HostMove), d ≠ 0#16 ∧ s.fault = none ∧ s.moves = .command (encode (.construct d)) :: ms ∧
      t.valid = true ∧ some t.recip = buildReciprocal d) ∨
    (∃ ws ms, s.moves = ws.map .command ++ .reset :: ms ∧ (s.fault = none → ws = []) ∧ t.valid = false)

/-- R95, for well-formed states: in every well-formed unfaulted state every command word has a step; the only stuck
states are the faulted ones; a finite command sequence from reset finishes or stops at its first fault. That the state
must be well formed (R15) is the model's reading of 93_implementation_defined.md U7: a query on a triple that no
construction leaves is refused (log entry 7). -/
def Obligations.EveryCommandHasAStep : Prop :=
  (∀ (s : State) (w : CmdWord) (ms : List HostMove), s.WellFormed → s.fault = none → s.moves = .command w :: ms →
    ∃ t, step s = .next t ∧ t.moves = ms) ∧
  (∀ (s : State) (f : Fault), step s = .fault f → ∃ c, s.fault = some c ∧ f = .engineFaulted c) ∧
  (∀ ws : List CmdWord, ∃ k s, k ≤ ws.length ∧ Reaches (ws.map .command) k s ∧
    (s.FinishedWithoutFault ∨ s.fault ≠ none))

/-- R39, R33: a step gives exactly one response when a command is taken, and none otherwise. From a well-formed state,
where no command is refused (log entry 7), `rsp_valid` is 1 after a step exactly when a command was taken in it, the
faulted engine's missing step included. The ports are read off the host's next move and the record of responses (log
entries 3 and 18). -/
def Obligations.OneResponsePerCommandTaken : Prop :=
  (∀ s t : State, step s = .next t →
    (commandTaken s = true → ∃ r, t.responses = s.responses ++ [r] ∧ responseGiven s (step s) = some r) ∧
    (commandTaken s = false → t.responses = s.responses ∧ responseGiven s (step s) = none)) ∧
  (∀ s : State, s.WellFormed → rspValid s (step s) = commandTaken s)

/-- R41: which result fields each command's response has. R41 says of a field it does not list only that it is
unspecified, may hold any value and must not be exposed; that such a field does not exist, so that the port's reading of
it is `none`, is the model's choice (log entry 4; 93_implementation_defined.md U5). -/
def Obligations.MeaningfulResultFields : Prop :=
  ∀ (s t : State) (i : Instr), exec i s = .next t → ∃ r, t.responses = s.responses ++ [r] ∧
    (rspStatus r ≠ 0#2 → rspQ r = none ∧ rspR r = none ∧ rspB r = none) ∧
    (rspStatus r = 0#2 →
      (∀ d, i = .construct d → rspQ r = none ∧ rspR r = none ∧ rspB r = none) ∧
      (∀ n, i = .div n → (rspQ r).isSome ∧ rspR r = none ∧ rspB r = none) ∧
      (∀ n, i = .mod n → rspQ r = none ∧ (rspR r).isSome ∧ rspB r = none) ∧
      (∀ n, i = .divmod n → (rspQ r).isSome ∧ (rspR r).isSome ∧ rspB r = none) ∧
      (∀ n, i = .divisible n → rspQ r = none ∧ rspR r = none ∧ (rspB r).isSome) ∧
      isReserved i = false)

/-- R76: a step that raises a fault writes its code to `FAULT`, responds with that status, and does nothing else; no
later command is taken: while that fault stands, `cmd_ready` is 0 and every command stops. -/
def Obligations.RaisingAFaultIsPrecise : Prop :=
  ∀ (s t : State) (i : Instr) (c : Cause), exec i s = .next t → t.fault = some c →
    t = { s with fault := some c, responses := s.responses ++ [.failed c] } ∧
    faultCause t = rspStatus (.failed c) ∧ (∀ ms, commandTaken { t with moves := ms } = false) ∧
    ∀ j : Instr, exec j t = .fault (.engineFaulted c)

/-- R71: the three faults, their codes, and exactly when each is raised. -/
def Obligations.CausesOfTheThreeFaults : Prop :=
  (∀ (s t : State) (i : Instr), exec i s = .next t →
    (t.fault = some .divideByZero ↔ i = .construct 0#16) ∧
    (t.fault = some .notConstructed ↔ isQuery i = true ∧ s.valid = false) ∧
    (t.fault = some .illegalCommand ↔ isReserved i = true) ∧
    (∀ r, t.responses = s.responses ++ [r] → rspStatus r = faultCause t)) ∧
  (∀ s : State, (faultCause s = 0#2 ↔ s.fault = none) ∧ (faultCause s = 1#2 ↔ s.fault = some .divideByZero) ∧
    (faultCause s = 2#2 ↔ s.fault = some .notConstructed) ∧ (faultCause s = 3#2 ↔ s.fault = some .illegalCommand))

/-- R84: what the host observes of a fault, in order. -/
def Obligations.WhatTheHostObservesOfAFault : Prop :=
  ∀ (s t : State) (i : Instr) (c : Cause), exec i s = .next t → t.fault = some c →
    (∃ r, t.responses = s.responses ++ [r] ∧ rspStatus r ≠ 0#2 ∧ rspStatus r = faultCause t) ∧ cmdReady t = false ∧
    (∀ u, step t = .next u → u.responses = t.responses) ∧
    (∀ ms, ∃ u, step { t with moves := .reset :: ms } = .next u ∧ faultCause u = 0#2 ∧
      (rst u = false → cmdReady u = true) ∧
      ∀ j, isQuery j = true → exec j u = .next (u.raise .notConstructed))

/-- R13, R22: while `VALID == 0` nothing depends on what `DMD`, `MULT` and `POW2` hold: two such states that differ in
the triple alone stop alike, raise alike, and give the same state after a construction. So the reset values of the
three registers, which the model chose (log entry 1), are never observed. -/
def Obligations.UnconstructedTripleIsUnobservable : Prop :=
  ∀ (s : State) (a b : Reciprocal) (i : Instr), s.valid = false →
    (∀ t, exec i { s with recip := a } = .next t →
      (t.valid = true ∧ exec i { s with recip := b } = .next t) ∨
      (t.valid = false ∧ t.recip = a ∧ exec i { s with recip := b } = .next { t with recip := b })) ∧
    (∀ f, exec i { s with recip := a } = .fault f → exec i { s with recip := b } = .fault f) ∧
    (∀ r, exec i { s with recip := a } ≠ .refused r)

/-- R94, R39: when a run from reset is finished, every command word of its moves has been answered, once. The list of
moves, the record of untaken words and what counts as finished are the model's (log entries 2, 5 and 16). -/
def Obligations.FinishedRunsHaveAnsweredEveryCommand : Prop :=
  ∀ (ms : List HostMove) (k : Nat) (s : State), Reaches ms k s → s.Finished →
    s.responses.length = (ms.filter isCommand).length

/-- R39, R28: no step loses or invents a command: in every step from any state, the commands answered, the words that
stay untaken and the commands still to come are together as many after it as before it. The lists that are counted are
the model's (log entries 2, 3 and 5). -/
def Obligations.StepAccountsForEveryCommand : Prop :=
  ∀ s t : State, step s = .next t →
    t.responses.length + t.untaken.length + (t.moves.filter isCommand).length =
      s.responses.length + s.untaken.length + (s.moves.filter isCommand).length

/-! ### Programs as text -/

/-- R43: a mnemonic with an argument in range stands for the word of that command, `.word` for the raw word, `RESET`
for the host's reset; a number out of range stands for nothing. R43 writes reserved words as `.word`; that `.word`
takes any word below `2^19`, and is out of range from there, is the model's choice (log entry 14). -/
def Obligations.AssembledLinesStandForTheirWords : Prop :=
  (∀ (m : Mnemonic) (a : Nat), a ≤ 65535 → ∃ w : CmdWord, assembleLine (.command m a) = .ok (.command w) ∧
    w.toNat % 65536 = a ∧ decode w = m.instr (BitVec.ofNat 16 a)) ∧
  (∀ (m : Mnemonic) (a : Nat), 65535 < a → assembleLine (.command m a) = .error .outOfRange) ∧
  (∀ w : Nat, w < 2 ^ 19 → assembleLine (.word w) = .ok (.command (BitVec.ofNat 19 w))) ∧
  (∀ w : Nat, 2 ^ 19 ≤ w → assembleLine (.word w) = .error .outOfRange) ∧
  assembleLine .reset = .ok .reset
end

