-- ==== Sys2Proof/Laws/State.lean ====
section
/-! SUPPORT. One lemma per field per update of the state, all true by unfolding, so that no later proof unfolds a
record update. -/

namespace Sys2Proof.Machine

variable (s : State)

@[simp] theorem State.respond_recip (r : Response) : (s.respond r).recip = s.recip := rfl
@[simp] theorem State.respond_valid (r : Response) : (s.respond r).valid = s.valid := rfl
@[simp] theorem State.respond_fault (r : Response) : (s.respond r).fault = s.fault := rfl
@[simp] theorem State.respond_moves (r : Response) : (s.respond r).moves = s.moves := rfl
@[simp] theorem State.respond_responses (r : Response) : (s.respond r).responses = s.responses ++ [r] := rfl
@[simp] theorem State.respond_untaken (r : Response) : (s.respond r).untaken = s.untaken := rfl

@[simp] theorem State.raise_recip (c : Cause) : (s.raise c).recip = s.recip := rfl
@[simp] theorem State.raise_valid (c : Cause) : (s.raise c).valid = s.valid := rfl
@[simp] theorem State.raise_fault (c : Cause) : (s.raise c).fault = some c := rfl
@[simp] theorem State.raise_moves (c : Cause) : (s.raise c).moves = s.moves := rfl
@[simp] theorem State.raise_responses (c : Cause) : (s.raise c).responses = s.responses ++ [.failed c] := rfl
@[simp] theorem State.raise_untaken (c : Cause) : (s.raise c).untaken = s.untaken := rfl

@[simp] theorem State.load_recip (t : Reciprocal) : (s.load t).recip = t := rfl
@[simp] theorem State.load_valid (t : Reciprocal) : (s.load t).valid = true := rfl
@[simp] theorem State.load_fault (t : Reciprocal) : (s.load t).fault = s.fault := rfl
@[simp] theorem State.load_moves (t : Reciprocal) : (s.load t).moves = s.moves := rfl
@[simp] theorem State.load_responses (t : Reciprocal) : (s.load t).responses = s.responses := rfl
@[simp] theorem State.load_untaken (t : Reciprocal) : (s.load t).untaken = s.untaken := rfl

@[simp] theorem State.hostReset_recip : (s.hostReset).recip = Reciprocal.reset := rfl
@[simp] theorem State.hostReset_valid : (s.hostReset).valid = false := rfl
@[simp] theorem State.hostReset_fault : (s.hostReset).fault = none := rfl
@[simp] theorem State.hostReset_moves : (s.hostReset).moves = s.moves := rfl
@[simp] theorem State.hostReset_responses : (s.hostReset).responses = s.responses := rfl
@[simp] theorem State.hostReset_untaken : (s.hostReset).untaken = s.untaken := rfl

@[simp] theorem State.present_recip (w : CmdWord) : (s.present w).recip = s.recip := rfl
@[simp] theorem State.present_valid (w : CmdWord) : (s.present w).valid = s.valid := rfl
@[simp] theorem State.present_fault (w : CmdWord) : (s.present w).fault = s.fault := rfl
@[simp] theorem State.present_moves (w : CmdWord) : (s.present w).moves = .command w :: s.moves := rfl
@[simp] theorem State.present_responses (w : CmdWord) : (s.present w).responses = s.responses := rfl
@[simp] theorem State.present_untaken (w : CmdWord) : (s.present w).untaken = s.untaken := rfl

@[simp] theorem State.reset_recip : State.reset.recip = Reciprocal.reset := rfl
@[simp] theorem State.reset_valid : State.reset.valid = false := rfl
@[simp] theorem State.reset_fault : State.reset.fault = none := rfl
@[simp] theorem State.reset_moves : State.reset.moves = [] := rfl
@[simp] theorem State.reset_responses : State.reset.responses = [] := rfl
@[simp] theorem State.reset_untaken : State.reset.untaken = [] := rfl

@[simp] theorem State.start_recip (ms : List HostMove) : (State.start ms).recip = Reciprocal.reset := rfl
@[simp] theorem State.start_valid (ms : List HostMove) : (State.start ms).valid = false := rfl
@[simp] theorem State.start_fault (ms : List HostMove) : (State.start ms).fault = none := rfl
@[simp] theorem State.start_moves (ms : List HostMove) : (State.start ms).moves = ms := rfl
@[simp] theorem State.start_responses (ms : List HostMove) : (State.start ms).responses = [] := rfl
@[simp] theorem State.start_untaken (ms : List HostMove) : (State.start ms).untaken = [] := rfl

end Sys2Proof.Machine
end

