-- ==== Sys2Proof/Laws/Ops.lean ====
section
/-! SUPPORT. What each shared operation can do, said once: the guards of the dispatch, the meanings, and how the engine
meets the host's next move. Later proofs cite these instead of unfolding. -/

namespace Sys2Proof.Machine

variable {s t : State} {c : Cause}

theorem whenUnfaulted_of_unfaulted {act : State → Result} (h : s.fault = none) :
    whenUnfaulted s act = act s := by
  simp [whenUnfaulted, h]

theorem whenUnfaulted_of_faulted {act : State → Result} (h : s.fault = some c) :
    whenUnfaulted s act = .fault (.engineFaulted c) := by
  simp [whenUnfaulted, h]

/-- An operation behind the first test of the dispatch answers a next state only in an unfaulted engine. -/
theorem whenUnfaulted_next {act : State → Result} (h : whenUnfaulted s act = .next t) :
    s.fault = none ∧ act s = .next t := by
  unfold whenUnfaulted at h
  split at h
  · exact ⟨‹_›, h⟩
  · cases h

theorem answerQuery_of_faulted {answer : Reciprocal → Response} (h : s.fault = some c) :
    answerQuery s answer = .fault (.engineFaulted c) :=
  whenUnfaulted_of_faulted h

theorem answerQuery_unconstructed {answer : Reciprocal → Response} (h : s.fault = none)
    (hv : s.valid = false) : answerQuery s answer = .next (s.raise .notConstructed) := by
  rw [answerQuery, whenUnfaulted_of_unfaulted h, hv]

theorem answerQuery_answers {answer : Reciprocal → Response} (h : s.fault = none)
    (hv : s.valid = true) (hw : s.recip.wf = true) :
    answerQuery s answer = .next (s.respond (answer s.recip)) := by
  rw [answerQuery, whenUnfaulted_of_unfaulted h, hv, hw]

theorem answerQuery_illFormed {answer : Reciprocal → Response} (h : s.fault = none)
    (hv : s.valid = true) (hw : s.recip.wf = false) :
    answerQuery s answer = .refused .illFormedReciprocal := by
  rw [answerQuery, whenUnfaulted_of_unfaulted h, hv, hw]

/-- A query that answers a next state either found no triple or answered from a well-formed one. -/
theorem answerQuery_next {answer : Reciprocal → Response} (h : answerQuery s answer = .next t) :
    s.fault = none ∧
      ((s.valid = false ∧ t = s.raise .notConstructed) ∨
        (s.valid = true ∧ s.recip.wf = true ∧ t = s.respond (answer s.recip))) := by
  obtain ⟨hf, h⟩ := whenUnfaulted_next h
  refine ⟨hf, ?_⟩
  split at h
  · exact .inl ⟨‹_›, by cases h; rfl⟩
  · exact .inr ⟨‹_›, ‹_›, by cases h; rfl⟩
  · cases h

/-- CONSTRUCT, once the engine is unfaulted, is decided by what construction computes. -/
theorem execConstruct_next {d : Half} (h : execConstruct d s = .next t) :
    s.fault = none ∧
      ((∃ r, buildReciprocal d = some r ∧ t = (s.load r).respond .constructed) ∨
        (buildReciprocal d = none ∧ t = s.raise .divideByZero)) := by
  obtain ⟨hf, h⟩ := whenUnfaulted_next h
  refine ⟨hf, ?_⟩
  split at h
  · exact .inl ⟨_, ‹_›, by cases h; rfl⟩
  · exact .inr ⟨‹_›, by cases h; rfl⟩

theorem raiseIllegal_next (h : raiseIllegal s = .next t) :
    s.fault = none ∧ t = s.raise .illegalCommand := by
  obtain ⟨hf, h⟩ := whenUnfaulted_next h
  exact ⟨hf, by cases h; rfl⟩

theorem buildReciprocal_zero : buildReciprocal 0#16 = none := by decide

/-- Only the zero divisor has no triple (R48). -/
theorem buildReciprocal_eq_none {d : Half} : buildReciprocal d = none ↔ d = 0#16 := by
  constructor
  · intro h
    unfold buildReciprocal at h
    split at h
    · cases h
    · split at h
      · assumption
      · cases h
  · rintro rfl
    exact buildReciprocal_zero

/-- Where there is a reset among the moves, the moves are the words before it, the reset, and the rest. -/
theorem splitAtReset_eq_some {ms rest : List HostMove} {ws : List CmdWord} :
    splitAtReset ms = some (ws, rest) ↔ ms = ws.map .command ++ .reset :: rest := by
  induction ms generalizing ws with
  | nil => simp [splitAtReset]
  | cons m ms ih =>
    cases m with
    | reset => cases ws <;> simp [splitAtReset, eq_comm]
    | command w =>
      cases ws with
      | nil =>
        simp only [splitAtReset, List.map_nil, List.nil_append, List.cons.injEq, reduceCtorEq, false_and, iff_false]
        split <;> simp
      | cons v ws =>
        simp only [splitAtReset, List.map_cons, List.cons_append, List.cons.injEq, HostMove.command.injEq, ← ih]
        split <;> simp_all [and_assoc]

theorem splitAtReset_eq_none {ms : List HostMove} : splitAtReset ms = none ↔ .reset ∉ ms := by
  induction ms with
  | nil => simp [splitAtReset]
  | cons m ms ih =>
    cases m with
    | reset => simp [splitAtReset]
    | command w =>
      simp only [splitAtReset, List.mem_cons, reduceCtorEq, false_or, ← ih]
      split <;> simp_all

theorem meetNext_of_unfaulted (h : s.fault = none) : meetNext s = meetFirst s := by
  simp [meetNext, h]

/-- A faulted engine goes past the words presented before the next reset and meets that reset. -/
theorem meetNext_faulted_reset {ws : List CmdWord} {ms : List HostMove} (h : s.fault = some c)
    (hm : s.moves = ws.map .command ++ .reset :: ms) :
    meetNext s = .reset { s with moves := ms, untaken := s.untaken ++ ws } := by
  simp only [meetNext, h, splitAtReset_eq_some.mpr hm]

theorem meetNext_no_reset (h : .reset ∉ s.moves) : meetNext s = meetFirst s := by
  unfold meetNext
  rw [splitAtReset_eq_none.mpr h]
  split
  · cases ‹none = some _›
  · rfl

end Sys2Proof.Machine
end

