-- ==== Sys2Proof/Laws/Exec.lean ====
section
/-! SUPPORT. What `exec` can answer, said once for all commands, and each arm as the shared operation it is. -/

namespace Sys2Proof.Machine

variable {s t : State} {i : Instr}

theorem exec_construct (d : Half) (s : State) : exec (.construct d) s = execConstruct d s := rfl

theorem exec_div (n : Half) (s : State) :
    exec (.div n) s = answerQuery s fun t => .quotient (quotientOf t n) := rfl

theorem exec_mod (n : Half) (s : State) :
    exec (.mod n) s = answerQuery s fun t => .remainder (remainderOf t n) := rfl

theorem exec_divmod (n : Half) (s : State) :
    exec (.divmod n) s = answerQuery s fun t => .quotientRemainder (divmodOf t n).1 (divmodOf t n).2 := rfl

theorem exec_divisible (n : Half) (s : State) :
    exec (.divisible n) s = answerQuery s fun t => .divisibility (divisibleOf t n) := rfl

theorem exec_reserved (h : isReserved i = true) (s : State) : exec i s = raiseIllegal s := by
  cases i <;> first | rfl | cases h

/-- What a query answers from a triple. -/
def queryAnswer : Instr → Reciprocal → Response
  | .div n, t => .quotient (quotientOf t n)
  | .mod n, t => .remainder (remainderOf t n)
  | .divmod n, t => .quotientRemainder (divmodOf t n).1 (divmodOf t n).2
  | .divisible n, t => .divisibility (divisibleOf t n)
  | .construct _, _ => .constructed
  | .reserved5 _, _ => .failed .illegalCommand
  | .reserved6 _, _ => .failed .illegalCommand
  | .reserved7 _, _ => .failed .illegalCommand

/-- All four queries are the one shared operation, with their own answer. -/
theorem exec_query (h : isQuery i = true) (s : State) : exec i s = answerQuery s (queryAnswer i) := by
  cases i <;> first | rfl | cases h

theorem queryAnswer_status (h : isQuery i = true) (r : Reciprocal) : (queryAnswer i r).status = none := by
  cases i <;> first | rfl | cases h

/-- Every command is CONSTRUCT, a query, or reserved. -/
theorem instr_kinds (i : Instr) :
    (∃ d, i = .construct d) ∨ isQuery i = true ∨ isReserved i = true := by
  cases i <;> simp [isQuery, isReserved]

/-- Everything a command can do when it answers a next state: load a triple, answer from the one held, or raise one of
the three faults. -/
theorem exec_next (h : exec i s = .next t) :
    s.fault = none ∧
      ((∃ d r, i = .construct d ∧ buildReciprocal d = some r ∧ t = (s.load r).respond .constructed) ∨
        (isQuery i = true ∧ s.Ready ∧ t = s.respond (queryAnswer i s.recip)) ∨
        (i = .construct 0#16 ∧ t = s.raise .divideByZero) ∨
        (isQuery i = true ∧ s.valid = false ∧ t = s.raise .notConstructed) ∨
        (isReserved i = true ∧ t = s.raise .illegalCommand)) := by
  obtain ⟨d, rfl⟩ | hq | hr := instr_kinds i
  · obtain ⟨hf, ⟨r, hb, rfl⟩ | ⟨hb, rfl⟩⟩ := execConstruct_next h
    · exact ⟨hf, .inl ⟨d, r, rfl, hb, rfl⟩⟩
    · exact ⟨hf, .inr (.inr (.inl ⟨by rw [buildReciprocal_eq_none.mp hb], rfl⟩))⟩
  · rw [exec_query hq] at h
    obtain ⟨hf, ⟨hv, rfl⟩ | ⟨hv, hw, rfl⟩⟩ := answerQuery_next h
    · exact ⟨hf, .inr (.inr (.inr (.inl ⟨hq, hv, rfl⟩)))⟩
    · exact ⟨hf, .inr (.inl ⟨hq, ⟨hf, hv, hw⟩, rfl⟩)⟩
  · rw [exec_reserved hr] at h
    obtain ⟨hf, rfl⟩ := raiseIllegal_next h
    exact ⟨hf, .inr (.inr (.inr (.inr ⟨hr, rfl⟩)))⟩

end Sys2Proof.Machine
end

