-- ==== Sys2Proof/Laws/Operands.lean ====
section
/-! SUPPORT. What each value primitive does to the number its argument stands for (00_scope.md R7, R8). -/

namespace Sys2Proof.Machine

theorem zext32_toNat (v : Half) : (zext32 v).toNat = v.toNat := by
  have := v.isLt
  rw [zext32, BitVec.toNat_setWidth]
  omega

theorem trunc16_toNat (v : Word) : (trunc16 v).toNat = v.toNat % 2 ^ 16 := by
  simp [trunc16, BitVec.toNat_setWidth]

theorem mul64_toNat (a b : Word) : (mul64 a b).toNat = a.toNat * b.toNat := by
  have ha := a.isLt
  have hb := b.isLt
  have hab : a.toNat * b.toNat < 2 ^ 32 * 2 ^ 32 := Nat.mul_lt_mul'' ha hb
  have hs : ∀ v : Word, (v.setWidth 64).toNat = v.toNat := fun v => by
    have := v.isLt
    rw [BitVec.toNat_setWidth]
    omega
  rw [mul64, BitVec.toNat_mul, hs, hs, Nat.mod_eq_of_lt (by omega)]

theorem hi32_toNat (p : DWord) : (hi32 p).toNat = p.toNat / 2 ^ 32 := by
  have := p.isLt
  simp only [hi32, BitVec.extractLsb'_toNat, Nat.shiftRight_eq_div_pow]
  omega

theorem lo32_toNat (p : DWord) : (lo32 p).toNat = p.toNat % 2 ^ 32 := by
  simp [lo32, BitVec.extractLsb'_toNat]

theorem mul32_toNat (a b : Word) : (mul32 a b).toNat = a.toNat * b.toNat % 2 ^ 32 := by
  rw [mul32, lo32_toNat, mul64_toNat]

theorem udiv32_toNat (a b : Word) : (udiv32 a b).toNat = a.toNat / b.toNat := by
  simp [udiv32]

/-- The addition of 1 in the magic constant does not wrap for a divisor above 1 (R60). -/
theorem magicConstant_toNat {d : Word} (h : 1 < d.toNat) :
    (magicConstant d).toNat = (2 ^ 32 - 1) / d.toNat + 1 := by
  have hq : (2 ^ 32 - 1) / d.toNat ≤ (2 ^ 32 - 1) / 2 := Nat.div_le_div_left h (by decide)
  have hd : Config.magicDividend.toNat = 2 ^ 32 - 1 := rfl
  rw [magicConstant, BitVec.toNat_add, udiv32_toNat, hd, show (1#32).toNat = 1 from rfl]
  exact Nat.mod_eq_of_lt (by omega)

/-- A triple on the power-of-two path is well formed exactly when its shift and mask belong to one `k` (R15). -/
theorem Reciprocal.wf_pow2 {t : Reciprocal} (h : t.pow2 = true) :
    t.wf = true ↔ t.mult.toNat ≤ 15 ∧ t.dmd = BitVec.ofNat 32 (2 ^ t.mult.toNat - 1) := by
  simp [Reciprocal.wf, h]

/-- A triple on the general path is well formed exactly when its constant is the divisor's (R15). -/
theorem Reciprocal.wf_general {t : Reciprocal} (h : t.pow2 = false) :
    t.wf = true ↔ 3 ≤ t.dmd.toNat ∧ t.dmd.toNat ≤ 65535 ∧ isPow2 (trunc16 t.dmd) = false ∧
      t.mult = magicConstant t.dmd := by
  simp [Reciprocal.wf, h, and_assoc]

end Sys2Proof.Machine
end

