-- ==== Sys2Proof/Laws/PerInstr.lean ====
section
/-! SUPPORT. Statements about every command as it is written: its word carries its opcode in bits 18:16 and its operand
in bits 15:0 (30_encoding.md R34). -/

namespace Sys2Proof.Laws

/-- Both fields of a word `op || arg` read back (R34). -/
theorem fields_of_append (op : Opcode) (arg : Half) :
    opField (op ++ arg : CmdWord) = op ∧ argField (op ++ arg : CmdWord) = arg := by
  constructor <;> refine BitVec.eq_of_getLsbD_eq fun i hi => ?_
  · rw [opField, BitVec.getLsbD_extractLsb', decide_eq_true hi, Bool.true_and]
    exact BitVec.getLsbD_append.trans (by simp)
  · rw [argField, BitVec.getLsbD_extractLsb', decide_eq_true hi, Bool.true_and]
    exact BitVec.getLsbD_append.trans (by simp [hi])

/-- The word of a command carries its opcode and its operand, and the command is well formed. -/
def FieldsCarried.Statement (i : Instr) : Prop :=
  i.wf = true ∧ opField (encode i) = opcodeOf i ∧ argField (encode i) = i.operand

theorem operand_fits (i : Instr) : i.wf = true := by
  simpa [Instr.wf, WellFormed.argNumber] using i.operand.isLt

theorem FieldsCarried.construct (d : Half) : FieldsCarried.Statement (.construct d) :=
  ⟨operand_fits _, fields_of_append _ _⟩

theorem FieldsCarried.div (n : Half) : FieldsCarried.Statement (.div n) :=
  ⟨operand_fits _, fields_of_append _ _⟩

theorem FieldsCarried.mod (n : Half) : FieldsCarried.Statement (.mod n) :=
  ⟨operand_fits _, fields_of_append _ _⟩

theorem FieldsCarried.divmod (n : Half) : FieldsCarried.Statement (.divmod n) :=
  ⟨operand_fits _, fields_of_append _ _⟩

theorem FieldsCarried.divisible (n : Half) : FieldsCarried.Statement (.divisible n) :=
  ⟨operand_fits _, fields_of_append _ _⟩

theorem FieldsCarried.reserved5 (a : Half) : FieldsCarried.Statement (.reserved5 a) :=
  ⟨operand_fits _, fields_of_append _ _⟩

theorem FieldsCarried.reserved6 (a : Half) : FieldsCarried.Statement (.reserved6 a) :=
  ⟨operand_fits _, fields_of_append _ _⟩

theorem FieldsCarried.reserved7 (a : Half) : FieldsCarried.Statement (.reserved7 a) :=
  ⟨operand_fits _, fields_of_append _ _⟩

end Sys2Proof.Laws
end

