-- ==== Sys2Proof/Laws/Step.lean ====
section
/-! SUPPORT. What one step can do, said once, and the induction over the steps of a run. -/

namespace Sys2Proof.Machine

variable {s t : State} {c : Cause}

/-- A faulted engine has no step for any command (R77). -/
theorem exec_of_faulted (h : s.fault = some c) (i : Instr) : exec i s = .fault (.engineFaulted c) := by
  obtain ⟨d, rfl⟩ | hq | hr := instr_kinds i
  · rw [exec_construct, execConstruct, whenUnfaulted_of_faulted h]
  · rw [exec_query hq, answerQuery_of_faulted h]
  · rw [exec_reserved hr, raiseIllegal, whenUnfaulted_of_faulted h]

/-- No command touches the host's moves or the record of untaken words. -/
theorem exec_next_environment {i : Instr} (h : exec i s = .next t) :
    t.moves = s.moves ∧ t.untaken = s.untaken := by
  obtain ⟨-, ⟨d, r, -, -, rfl⟩ | ⟨-, -, rfl⟩ | ⟨-, rfl⟩ | ⟨-, -, rfl⟩ | ⟨-, rfl⟩⟩ := exec_next h <;>
    exact ⟨rfl, rfl⟩

/-- The state in which the command at the head of the moves runs, and the state a reset at their head leaves. -/
theorem step_of_meetFirst (h : meetNext s = meetFirst s) :
    step s = match s.moves with
      | [] => .next s
      | .reset :: ms => .next { s.hostReset with moves := ms }
      | .command w :: ms => exec (decode w) { s with moves := ms } := by
  unfold step
  rw [h, meetFirst]
  cases s.moves with
  | nil => rfl
  | cons m ms => cases m <;> rfl

/-- Everything a step can do when it answers a next state: nothing, where the host makes no move; the reset event,
which a faulted engine meets behind the words it does not take; or one command, taken by an unfaulted engine. -/
theorem step_next (h : step s = .next t) :
    (s.moves = [] ∧ t = s) ∨
      (∃ ws ms, s.moves = ws.map .command ++ .reset :: ms ∧ (s.fault = none → ws = []) ∧
        t = { s.hostReset with moves := ms, untaken := s.untaken ++ ws }) ∨
      (∃ w ms, s.moves = .command w :: ms ∧ s.fault = none ∧ exec (decode w) { s with moves := ms } = .next t) := by
  by_cases hm : meetNext s = meetFirst s
  · rw [step_of_meetFirst hm] at h
    split at h
    · exact .inl ⟨‹_›, by cases h; rfl⟩
    · rename_i ms hs
      cases h
      exact .inr (.inl ⟨[], ms, hs, fun _ => rfl, by simp [State.hostReset]⟩)
    · rename_i w ms hs
      exact .inr (.inr ⟨w, ms, hs, (exec_next h).1, h⟩)
  · cases hf : s.fault with
    | none => exact absurd (meetNext_of_unfaulted hf) hm
    | some c =>
      obtain ⟨⟨ws, ms⟩, hsp⟩ : ∃ p, splitAtReset s.moves = some p :=
        Option.ne_none_iff_exists'.mp fun hn => hm (meetNext_no_reset (splitAtReset_eq_none.mp hn))
      have hs := splitAtReset_eq_some.mp hsp
      rw [step, meetNext_faulted_reset hf hs] at h
      cases h
      exact .inr (.inl ⟨ws, ms, hs, (nomatch ·), rfl⟩)

/-- A transaction that adds one response to the record gives that response. -/
theorem responseGiven_of_append {r : Response} (h : t.responses = s.responses ++ [r]) :
    responseGiven s (.next t) = some r := by
  simp [responseGiven, h]

/-- A transaction that leaves the record as it is gives no response. -/
theorem responseGiven_of_same (h : t.responses = s.responses) : responseGiven s (.next t) = none := by
  simp [responseGiven, h]

@[simp] theorem responseGiven_fault (s : State) (f : Fault) : responseGiven s (.fault f) = none := rfl
@[simp] theorem responseGiven_refused (s : State) (r : Refusal) : responseGiven s (.refused r) = none := rfl

theorem run_zero (s : State) : Host.Core.run Sys2Proof.core 0 s = .next s := rfl

/-- A run whose first step answers a next state goes on from there. -/
theorem run_succ_of_step {k : Nat} (h : step s = .next t) :
    Host.Core.run Sys2Proof.core (k + 1) s = Host.Core.run Sys2Proof.core k t := by
  have hc : Host.Core.step Sys2Proof.core s = .next t := h
  simp only [Host.Core.run, hc]

/-- A run of `k + 1` steps that all succeeded begins with one that did. -/
theorem run_succ_next {k : Nat} (h : Host.Core.run Sys2Proof.core (k + 1) s = .next t) :
    ∃ u, step s = .next u ∧ Host.Core.run Sys2Proof.core k u = .next t := by
  cases hs : step s with
  | next u => exact ⟨u, rfl, run_succ_of_step hs ▸ h⟩
  | fault f =>
    have hc : Host.Core.step Sys2Proof.core s = .fault f := hs
    simp only [Host.Core.run, hc] at h
    cases h
  | refused r =>
    have hc : Host.Core.step Sys2Proof.core s = .refused r := hs
    simp only [Host.Core.run, hc] at h
    cases h

/-- A property that every step keeps holds at the end of a run that begins with it. -/
theorem run_keeps {P : State → Prop} (keeps : ∀ s t, P s → step s = .next t → P t) {k : Nat} (hs : P s)
    (h : Host.Core.run Sys2Proof.core k s = .next t) : P t := by
  induction k generalizing s with
  | zero => cases h; exact hs
  | succ k ih =>
    obtain ⟨u, hu, hr⟩ := run_succ_next h
    exact ih (keeps s u hs hu) hr

end Sys2Proof.Machine
end

