-- ==== Sys2Proof/Tests/Slice0.lean ====
section
/-! SUPPORT. The model's own tests. Expected results come from spec/95_test_vectors.md and the tables of
40_construct.md; each test looks at one step or one value. The second part shows, for every statement that has
hypotheses, a concrete case that meets them all. -/

namespace Sys2Proof.Tests

open Sys2Proof.Machine

/-- The next state an outcome holds, if it holds one. -/
def answered : Host.Outcome State Fault Refusal → Option State
  | .next s => some s
  | .fault _ => none
  | .refused _ => none

/-- The fault an outcome stops with, if it stops with one. -/
def stopped : Host.Outcome State Fault Refusal → Option Fault
  | .next _ => none
  | .fault f => some f
  | .refused _ => none

/-- The refusal an outcome is, if it is one. -/
def refused : Host.Outcome State Fault Refusal → Option Refusal
  | .next _ => none
  | .fault _ => none
  | .refused r => some r

/-- A state that holds a triple. -/
def holding (dmd mult : Word) (pow2 : Bool) : State :=
  { State.reset with recip := { dmd := dmd, mult := mult, pow2 := pow2 }, valid := true }

/-- The state after CONSTRUCT 7 (95 section 2). -/
def holding7 : State := holding 0x00000007#32 0x24924925#32 false

/-- The last response of a step from a state. -/
def lastResponse (i : Instr) (s : State) : Option Response := (answered (exec i s)).bind (·.responses.getLast?)

/-! ### Well-formedness: a number that is no command word, no opcode, no argument -/

theorem test_wordNumber_limits : WellFormed.wordNumber 0x7FFFF = true ∧ WellFormed.wordNumber 0x80000 = false := by decide
theorem test_opNumber_limits : WellFormed.opNumber 7 = true ∧ WellFormed.opNumber 8 = false := by decide
theorem test_argNumber_limits : WellFormed.argNumber 65535 = true ∧ WellFormed.argNumber 65536 = false := by decide
theorem test_asmLine_limits : AsmLine.wf (.command .div 65536) = false ∧ AsmLine.wf (.word 0x80000) = false := by decide
theorem test_illFormed_triples :
    Reciprocal.wf { dmd := 3#32, mult := 16#32, pow2 := true } = false ∧
    Reciprocal.wf { dmd := 2#32, mult := 2#32, pow2 := true } = false ∧
    Reciprocal.wf { dmd := 1#32, mult := 0#32, pow2 := false } = false ∧
    Reciprocal.wf { dmd := 4#32, mult := 0x40000000#32, pow2 := false } = false ∧
    Reciprocal.wf { dmd := 7#32, mult := 0x24924924#32, pow2 := false } = false ∧
    Reciprocal.wf { dmd := 65537#32, mult := 0xFFFF#32, pow2 := false } = false := by decide

/-! ### Decoding: words written out bit by bit from R34 and R35 (95 section 5) -/

theorem test_decode_construct : decode 0b0000000000000000111#19 = .construct 7#16 := by decide
theorem test_decode_div : decode 0b0010000000001100100#19 = .div 100#16 := by decide
theorem test_decode_mod : decode 0b0101111111111111111#19 = .mod 65535#16 := by decide
theorem test_decode_divmod : decode 0b0110000000001100100#19 = .divmod 100#16 := by decide
theorem test_decode_divisible : decode 0b1000000000000011001#19 = .divisible 25#16 := by decide
theorem test_decode_reserved5 : decode 0b1010000000000000000#19 = .reserved5 0#16 := by decide
theorem test_decode_reserved6 : decode 0b1101010101111001101#19 = .reserved6 43981#16 := by decide
theorem test_decode_reserved7 : decode 0b1111111111111111111#19 = .reserved7 65535#16 := by decide
theorem test_encode_words : encode (.divmod 12345#16) = 0x33039#19 ∧ encode (.divisible 98#16) = 0x40062#19 := by decide
theorem test_decodeTableWord : decodeTableWord 24 0x4FFFF = some (.divisible 65535#16) ∧ decodeTableWord 24 0x80000 = none := by decide

/-! ### The response port (R33, R39): present for a command taken, absent for a reset and for a stuck engine -/

theorem test_rspValid :
    rspValid holding7 (exec (.div 100#16) holding7) = true ∧
    responseGiven holding7 (exec (.div 100#16) holding7) = some (.quotient 14#16) ∧
    rspValid { holding7 with moves := [.reset] } (step { holding7 with moves := [.reset] }) = false ∧
    rspValid { holding7 with fault := some .divideByZero } (exec (.div 100#16) { holding7 with fault := some .divideByZero }) =
      false := by
  decide

/-! ### CONSTRUCT (95 section 2) -/

theorem test_construct_general :
    (answered (exec (.construct 641#16) State.reset)).map (·.recip) = some { dmd := 0x281#32, mult := 0x00663D81#32, pow2 := false } := by
  decide
theorem test_construct_pow2 :
    (answered (exec (.construct 32768#16) holding7)).map (·.recip) = some { dmd := 0x7FFF#32, mult := 15#32, pow2 := true } := by
  decide
theorem test_construct_zero_keeps_triple :
    answered (exec (.construct 0#16) holding7) =
      some { holding7 with fault := some .divideByZero, responses := [.failed .divideByZero] } := by decide

/-! ### Queries (95 sections 3 and 4) -/

theorem test_div_general : lastResponse (.div 100#16) holding7 = some (.quotient 14#16) := by decide
theorem test_div_by_one : lastResponse (.div 65535#16) (holding 0#32 0#32 true) = some (.quotient 65535#16) := by decide
theorem test_mod_wraps : lastResponse (.mod 100#16) holding7 = some (.remainder 2#16) := by decide
theorem test_mod_greatest :
    lastResponse (.mod 65534#16) (holding 0xFFFF#32 0x00010002#32 false) = some (.remainder 65534#16) := by decide
theorem test_divmod_general :
    lastResponse (.divmod 54321#16) (holding 0x3039#32 0x00054F08#32 false) = some (.quotientRemainder 4#16 4941#16) := by
  decide
theorem test_divmod_pow2 :
    lastResponse (.divmod 5000#16) (holding 0x3FF#32 10#32 true) = some (.quotientRemainder 4#16 904#16) := by decide
theorem test_divisible_is_unsigned : lastResponse (.divisible 6#16) holding7 = some (.divisibility false) := by decide
theorem test_divisible_general :
    lastResponse (.divisible 25#16) (holding 5#32 0x33333334#32 false) = some (.divisibility true) := by decide
/-- 93_implementation_defined.md U3, for the record: the wrapped constant of divisor 1 would give 0. -/
theorem test_datapath_on_unreachable_triple :
    quotientOf { dmd := 1#32, mult := 0#32, pow2 := false } 9#16 = 0#16 := by decide

/-! ### Faults, reset and the ports (95 section 5) -/

theorem test_query_before_construct : (answered (exec (.div 100#16) State.reset)).map faultCause = some 2#2 := by decide
theorem test_reserved5 : (answered (exec (.reserved5 0#16) State.reset)).map faultCause = some 3#2 := by decide
theorem test_reserved6 : lastResponse (.reserved6 43981#16) holding7 = some (.failed .illegalCommand) := by decide
theorem test_reserved7_keeps_triple : (answered (exec (.reserved7 65535#16) holding7)).map (·.recip) = some holding7.recip := by decide
theorem test_faulted_engine_is_stuck :
    stopped (exec (.construct 7#16) { State.reset with fault := some .notConstructed }) =
      some (.engineFaulted .notConstructed) := by decide
theorem test_illFormed_refused :
    refused (exec (.div 1#16) (holding 1#32 0#32 false)) = some .illFormedReciprocal := by decide
/-- 95 program P5, steps 4 and 5: the word presented to the faulted engine is not taken, the reset is. -/
theorem test_reset_behind_untaken_word :
    answered (step { holding7 with fault := some .divideByZero, moves := [.command 0x10064#19, .reset, .command 0x10064#19] }) =
      some { State.reset with moves := [.command 0x10064#19], untaken := [0x10064#19] } := by decide
theorem test_ports :
    cmdReady State.reset = true ∧ cmdReady { State.reset with fault := some .illegalCommand } = false ∧
    cmdOp { State.reset with moves := [.command 0x33039#19] } = some 3#3 ∧
    cmdArg { State.reset with moves := [.command 0x33039#19] } = some 12345#16 ∧
    rspStatus (.failed .notConstructed) = 2#2 ∧ rspQ (.remainder 1#16) = none := by decide

/-! ### Program text (R43) -/

/-- Whether a program's text stands for these moves. -/
def assemblesTo (text : List (List Char)) (ms : List HostMove) : Bool :=
  match assemble text with
  | .ok l => decide (l = ms)
  | .error _ => false

theorem test_assemble_div : assemblesTo [['D', 'I', 'V', ' ', ' ', '1', '0', '0']] [.command 0x10064#19] = true := by decide
theorem test_assemble_word_and_reset :
    assemblesTo [['.', 'w', 'o', 'r', 'd', ' ', '0', 'x', '6', 'A', 'B', 'C', 'D'], ['-', '-', ' ', 'x'], ['R', 'E', 'S', 'E', 'T', ' ', '-', '-']]
      [.command 0x6ABCD#19, .reset] = true := by decide
theorem test_assemble_out_of_range : assemblesTo [['M', 'O', 'D', ' ', '6', '5', '5', '3', '6']] [.command 0x20000#19] = false := by decide

/-! ### Witnesses: the hypotheses of each statement can be met together -/

theorem witness_OpcodeMapByMask :
    ((0xFFFF#16 : Half) = BitVec.ofNat 16 (0x0FFFF#19).toNat) ∧ 0x0FFFF#19 &&& 0x70000#19 = 0x00000#19 ∧
    0x10000#19 &&& 0x70000#19 = 0x10000#19 ∧ 0x2FFFF#19 &&& 0x70000#19 = 0x20000#19 ∧
    0x30000#19 &&& 0x70000#19 = 0x30000#19 ∧ 0x4FFFF#19 &&& 0x70000#19 = 0x40000#19 ∧
    0x50000#19 &&& 0x70000#19 = 0x50000#19 ∧ 0x6FFFF#19 &&& 0x70000#19 = 0x60000#19 ∧
    0x7FFFF#19 &&& 0x70000#19 = 0x70000#19 := by decide
theorem witness_EveryWordSpellsExactlyOneCommand : encode (.reserved7 65535#16) = 0x7FFFF#19 := by decide
theorem witness_WiderNumbersAreNoCommand : 2 ^ 19 - 1 < 2 ^ 19 ∧ 2 ^ 19 ≤ 2 ^ 19 := by decide
theorem witness_StepRunsThePresentedCommand :
    holding7.fault = none ∧ (holding7.present 0x10064#19).moves = .command 0x10064#19 :: [] := by decide
theorem witness_ResetTakesEffectInAnyState :
    ({ holding7 with fault := some .illegalCommand, moves := [.reset] } : State).moves = .reset :: [] := by decide
theorem witness_FaultedEngineTakesNoCommand :
    ({ holding7 with fault := some .divideByZero, moves := [.command 7#19] } : State).fault = some .divideByZero ∧
    ({ holding7 with fault := some .divideByZero, moves := [.command 7#19] } : State).moves = .command 7#19 :: [] ∧
    HostMove.reset ∉ ([] : List HostMove) := by decide
theorem witness_OnlyResetLeavesTheFaultedState :
    (answered (step { holding7 with fault := some .divideByZero })).isSome = true ∧
    (answered (step { holding7 with fault := some .divideByZero, moves := [.command 7#19, .reset] })).isSome = true ∧
    ({ holding7 with moves := [.command 7#19, .reset] } : State).moves = [7#19].map .command ++ .reset :: [] := by decide
theorem witness_IdleEngineKeepsItsState : State.reset.moves = [] := by decide
theorem witness_PresentedTableWordRunsFirst : 0x7FFFF < 2 ^ 19 := by decide
theorem witness_ConstructPowerOfTwo :
    State.reset.fault = none ∧ 0 < 16 ∧ 15 < 16 ∧
    (answered (exec (.construct 6#16) State.reset)).map (·.fault) = some none := by decide
theorem witness_ConstructGeneralDivisor :
    State.reset.fault = none ∧ GeneralDivisor 3#16 ∧ GeneralDivisor 65535#16 := by decide
theorem witness_ConstructZeroFaults : holding7.fault = none := by decide
theorem witness_PowerOfTwoTestAndTrailingZeros : (0x8000#16 : Half) ≠ 0#16 ∧ 15 < 16 ∧ 14 < ctz16 0x8000#16 := by decide
theorem witness_ReconstructionReplacesTheTriple :
    State.reset.fault = none ∧ holding7.fault = none ∧ holding7.valid = true ∧ (5#16 : Half) ≠ 0#16 ∧
    isQuery (.div 9#16) = true := by decide
theorem witness_ConstructIsIdempotent : holding7.fault = none ∧ (1#16 : Half) ≠ 0#16 := by decide
theorem witness_MagicConstantIsTheCeiling : GeneralDivisor 3#16 ∧ GeneralDivisor 65535#16 := by decide
theorem witness_ExcessStaysBelowTheDivisor : GeneralDivisor 641#16 := by decide
theorem witness_FirstProductSplitsIntoQuotientAndFraction :
    GeneralDivisor 7#16 ∧ 0x24924924 < (magicConstant (zext32 7#16)).toNat := by decide
theorem witness_SecondProductGivesTheRemainder : GeneralDivisor 12345#16 := by decide
theorem witness_FractionDecidesDivisibility : GeneralDivisor 32769#16 := by decide
theorem witness_PowerOfTwoPathIsExact :
    15 < 16 ∧ (answered (exec (.construct (BitVec.ofNat 16 (2 ^ 15))) State.reset)).isSome = true := by decide
theorem witness_TruncationsLoseNothing : GeneralDivisor 65534#16 := by decide
theorem witness_IntermediateValuesStayInRange :
    (1#16 : Half) ≠ 0#16 ∧ GeneralDivisor 3#16 ∧ holding7.recip.wf = true ∧ holding7.recip.pow2 = false ∧
    (holding 0x7FFF#32 15#32 true).recip.wf = true ∧ (holding 0x7FFF#32 15#32 true).recip.pow2 = true := by decide
theorem witness_DivAnswersTheQuotient : holding7.Ready ∧ (holding 0#32 0#32 true).Ready := by decide
theorem witness_ModAnswersTheRemainder : holding7.Ready ∧ (holding 0x7FFF#32 15#32 true).Ready := by decide
theorem witness_DivmodAnswersBoth : (holding 3#32 0x55555556#32 false).Ready ∧ (holding 1#32 1#32 true).Ready := by decide
theorem witness_DivisibleAnswersWhetherItDivides :
    (holding 0xFFFF#32 0x00010002#32 false).Ready ∧ (holding 0xF#32 4#32 true).Ready := by decide
theorem witness_QueryBeforeConstructionFaults :
    isQuery (.divisible 0#16) = true ∧ State.reset.fault = none ∧ State.reset.valid = false := by decide
theorem witness_ReservedOpcodesRaiseIllegalCommand :
    State.reset.fault = none ∧ 5 * 65536 ≤ (0x50000#19).toNat ∧ isReserved (decode 0x50000#19) = true ∧
    isReserved (decode 0x4FFFF#19) = false := by decide
theorem witness_OnlyIllFormedTriplesAreRefused :
    isQuery (.mod 1#16) = true ∧ (holding 1#32 0#32 false).fault = none ∧ (holding 1#32 0#32 false).valid = true ∧
    (holding 1#32 0#32 false).recip.wf = false := by decide
theorem witness_DivmodAgreesWithDivAndMod : (holding 5#32 0x33333334#32 false).Ready := by decide
theorem witness_DivisorOneIsExact : State.reset.fault = none := by decide
theorem witness_QueriesAreExactAfterConstruct : State.reset.fault = none ∧ (65535#16 : Half) ≠ 0#16 := by decide
theorem witness_DivisionIdentity : State.reset.fault = none ∧ (1#16 : Half) ≠ 0#16 := by decide
theorem witness_CornerResults :
    buildReciprocal 3#16 = some { dmd := 3#32, mult := 0x55555556#32, pow2 := false } ∧
    buildReciprocal 2#16 = some { dmd := 1#32, mult := 1#32, pow2 := true } ∧
    buildReciprocal 32768#16 = some { dmd := 32767#32, mult := 15#32, pow2 := true } ∧
    buildReciprocal 1#16 = some { dmd := 0#32, mult := 0#32, pow2 := true } ∧ (2#16 : Half) ≠ 0#16 ∧
    (2#16 : Half).toNat < (3#16 : Half).toNat := by decide
theorem witness_QueryResponseDependsOnTheTripleAlone :
    isQuery (.divmod 1#16) = true ∧ holding7.Ready ∧ (holding7.respond .constructed).Ready ∧
    holding7.recip = (holding7.respond .constructed).recip := by decide
theorem witness_EveryInterleavingOfQueriesAnswersAlike :
    holding7.Ready ∧ ∀ i ∈ [Instr.div 1#16, .mod 2#16, .divmod 3#16, .divisible 4#16], isQuery i = true := by decide
theorem witness_StepKeepsStatesWellFormed :
    holding7.WellFormed ∧ (answered (step (holding7.present 0x00000#19))).isSome = true := by decide
theorem witness_ReachableStatesAreWellFormed :
    Reaches [.command 0x00007#19] 1 { holding7 with responses := [.constructed] } := by rfl
theorem witness_RegisterRangesOfValidStates :
    holding7.WellFormed ∧ holding7.valid = true ∧ holding7.recip.pow2 = false ∧
    (holding 0x7FFF#32 15#32 true).WellFormed ∧ (holding 0x7FFF#32 15#32 true).recip.pow2 = true := by decide
theorem witness_CommandsWriteOnlyWhatTheTableSays :
    (answered (exec (.construct 1#16) State.reset)).isSome = true ∧ (answered (exec (.construct 0#16) holding7)).isSome = true ∧
    (answered (exec (.div 1#16) holding7)).isSome = true ∧ (answered (exec (.div 1#16) State.reset)).isSome = true ∧
    (answered (exec (.reserved7 1#16) holding7)).isSome = true := by decide
theorem witness_OnlyConstructAndResetWriteTheTriple :
    (answered (step (holding7.present 0x00005#19))).map (·.recip) ≠ some holding7.recip ∧
    (answered (step { holding7 with moves := [.reset] })).map (·.valid) = some false := by decide
theorem witness_EveryCommandHasAStep :
    (holding7.present 0x7FFFF#19).WellFormed ∧ (holding7.present 0x7FFFF#19).fault = none ∧
    (holding7.present 0x7FFFF#19).moves = .command 0x7FFFF#19 :: [] ∧
    (stopped (step { holding7 with fault := some .divideByZero, moves := [.command 7#19] })).isSome = true := by decide
theorem witness_OneResponsePerCommandTaken :
    commandTaken (holding7.present 0x10064#19) = true ∧ (answered (step (holding7.present 0x10064#19))).isSome = true ∧
    commandTaken { holding7 with moves := [.reset] } = false ∧
    (answered (step { holding7 with moves := [.reset] })).isSome = true ∧ (holding7.present 0x10064#19).WellFormed ∧
    ({ State.reset with fault := some .illegalCommand, moves := [.command 7#19] } : State).WellFormed := by decide
theorem witness_MeaningfulResultFields :
    rspStatus (.failed .divideByZero) ≠ 0#2 ∧ rspStatus (.quotient 14#16) = 0#2 ∧
    (answered (exec (.construct 0#16) holding7)).isSome = true ∧ (answered (exec (.div 100#16) holding7)).isSome = true := by
  decide
theorem witness_RaisingAFaultIsPrecise :
    (answered (exec (.construct 0#16) holding7)).map (·.fault) = some (some .divideByZero) ∧
    (answered (exec (.mod 0#16) State.reset)).map (·.fault) = some (some .notConstructed) ∧
    (answered (exec (.reserved6 0#16) State.reset)).map (·.fault) = some (some .illegalCommand) := by decide
theorem witness_CausesOfTheThreeFaults :
    (answered (exec (.divmod 1#16) State.reset)).map (·.responses) = some (State.reset.responses ++ [.failed .notConstructed]) := by
  decide
theorem witness_WhatTheHostObservesOfAFault :
    (answered (exec (.construct 0#16) holding7)).map (·.fault) = some (some .divideByZero) ∧
    (answered (step { holding7 with fault := some .divideByZero })).isSome = true ∧ isQuery (.div 0#16) = true ∧
    rst { State.reset with moves := [] } = false := by decide
theorem witness_UnconstructedTripleIsUnobservable :
    State.reset.valid = false ∧
    (answered (exec (.construct 3#16) { State.reset with recip := holding7.recip })).isSome = true ∧
    (stopped (exec (.div 3#16) { State.reset with recip := holding7.recip, fault := some .notConstructed })).isSome = true := by
  decide
theorem witness_FinishedRunsHaveAnsweredEveryCommand :
    Reaches [.command 0x00007#19] 1 { holding7 with responses := [.constructed] } ∧
    ({ holding7 with responses := [.constructed] } : State).Finished := ⟨rfl, by decide⟩
theorem witness_StepAccountsForEveryCommand :
    (answered (step (holding7.present 0x10064#19))).isSome = true ∧
    (answered (step { holding7 with fault := some .illegalCommand, moves := [.command 7#19, .reset] })).isSome = true := by
  decide
theorem witness_AssembledLinesStandForTheirWords :
    65535 ≤ 65535 ∧ 65535 < 65536 ∧ 0x7FFFF < 2 ^ 19 ∧ 2 ^ 19 ≤ 0x80000 := by decide

end Sys2Proof.Tests
end

section
/-! PROOFS. The power-of-two test and the trailing-zero count of 00_scope.md R8, for every divisor. -/

namespace Sys2Proof.Machine

variable {d : Half}

/-- The set bits of `d` below 16 are counted one by one, so none is counted exactly when all are clear. -/
theorem onesBelow_eq_zero_iff (k : Nat) : onesBelow d k = 0 ↔ ∀ j < k, d.getLsbD j = false := by
  induction k with
  | zero => simp [onesBelow]
  | succ k ih => rw [onesBelow, Nat.add_eq_zero_iff, ih, Bool.toNat_eq_zero, Nat.forall_lt_succ_right]

/-- One bit is counted exactly when one position is set and no other is: it is the top one, over clear bits, or it lies
below a clear top one. -/
theorem onesBelow_eq_one_iff (k : Nat) :
    onesBelow d k = 1 ↔ ∃ i < k, ∀ j < k, d.getLsbD j = decide (i = j) := by
  induction k with
  | zero => simp [onesBelow]
  | succ k ih =>
    cases hk : d.getLsbD k with
    | false =>
      simp only [onesBelow, hk, Bool.toNat_false, Nat.add_zero, ih]
      constructor
      · rintro ⟨i, hi, h⟩
        refine ⟨i, by omega, Nat.forall_lt_succ_right.mpr ⟨h, ?_⟩⟩
        simp [hk, hi.ne]
      · rintro ⟨i, hi, h⟩
        have hne : i ≠ k := by simpa [hk] using h k (by omega)
        exact ⟨i, by omega, fun j hj => h j (by omega)⟩
    | true =>
      simp only [onesBelow, hk, Bool.toNat_true, Nat.add_eq_right, onesBelow_eq_zero_iff]
      constructor
      · intro h
        refine ⟨k, by omega, Nat.forall_lt_succ_right.mpr ⟨fun j hj => ?_, by simp [hk]⟩⟩
        simp [h j hj, hj.ne']
      · rintro ⟨i, -, h⟩ j hj
        obtain rfl : i = k := by simpa [hk] using h k (by omega)
        simp [h j (by omega), hj.ne']

theorem eq_twoPow_iff_toNat {i : Nat} (hi : i < 16) : d = BitVec.twoPow 16 i ↔ d.toNat = 2 ^ i := by
  rw [← BitVec.toNat_inj, BitVec.toNat_twoPow, Nat.mod_eq_of_lt (Nat.pow_lt_pow_right (by decide) hi)]

theorem eq_twoPow_iff_getLsbD {i : Nat} (hi : i < 16) :
    d = BitVec.twoPow 16 i ↔ ∀ j < 16, d.getLsbD j = decide (i = j) := by
  simp [BitVec.eq_of_getLsbD_eq_iff, BitVec.getLsbD_twoPow, hi]

theorem isPow2_iff_exists_toNat : isPow2 d = true ↔ ∃ k, k < 16 ∧ d.toNat = 2 ^ k := by
  rw [isPow2, beq_iff_eq, popcount16, onesBelow_eq_one_iff]
  refine exists_congr fun i => and_congr_right fun hi => ?_
  rw [← eq_twoPow_iff_getLsbD hi, eq_twoPow_iff_toNat hi]

/-- On 16 bits, the exponent's bound of `isPow2_iff_exists_toNat` costs nothing. -/
theorem isPow2_iff_isPowerOfTwo : isPow2 d = true ↔ d.toNat.isPowerOfTwo := by
  rw [isPow2_iff_exists_toNat]
  refine exists_congr fun k => and_iff_right_of_imp fun h => ?_
  exact (Nat.pow_lt_pow_iff_right (by decide : 1 < 2)).mp (h ▸ d.isLt)

/-- Subtracting 1 does not wrap where `d` is not 0, so the test on words is the library's test on numbers. -/
theorem isPow2_iff_and_sub_one : isPow2 d = true ↔ d ≠ 0#16 ∧ d &&& (d - 1#16) = 0#16 := by
  have hne : d.toNat ≠ 0 ↔ d ≠ 0#16 := by simp [← BitVec.toNat_inj]
  rw [isPow2_iff_isPowerOfTwo, ← Nat.ne_zero_and_sub_one_eq_zero_iff_isPowerOfTwo, hne]
  refine and_congr_right fun hd => ?_
  have hle : 1#16 ≤ d := Nat.one_le_iff_ne_zero.mpr (hne.mpr hd)
  rw [← BitVec.toNat_inj, BitVec.toNat_and, BitVec.toNat_sub_of_le hle]
  rfl

/-- The search from bit `i` up stops at the first set bit, if it looks far enough to meet one. -/
theorem firstOneFrom_spec {fuel i j : Nat} (hij : i ≤ j) (hj : j < i + fuel) (hset : d.getLsbD j = true) :
    firstOneFrom d fuel i < i + fuel ∧ d.getLsbD (firstOneFrom d fuel i) = true ∧
      ∀ m, i ≤ m → m < firstOneFrom d fuel i → d.getLsbD m = false := by
  induction fuel generalizing i with
  | zero => omega
  | succ fuel ih =>
    rw [firstOneFrom]
    split
    next hi => exact ⟨by omega, hi, by omega⟩
    next hi =>
      have hne : i ≠ j := by rintro rfl; exact hi hset
      obtain ⟨hlt, hbit, hlow⟩ := ih (i := i + 1) (by omega) (by omega)
      refine ⟨by omega, hbit, fun m him hm => ?_⟩
      obtain rfl | him := him.eq_or_lt
      · simpa using hi
      · exact hlow m him hm

theorem ctz16_spec (hd : d ≠ 0#16) :
    ctz16 d < 16 ∧ d.getLsbD (ctz16 d) = true ∧ ∀ j, j < ctz16 d → d.getLsbD j = false := by
  obtain ⟨j, hj, hset⟩ : ∃ j, j < 16 ∧ d.getLsbD j = true := by
    by_contra! h
    exact hd (BitVec.eq_of_getLsbD_eq fun j hj => by simpa using h j hj)
  obtain ⟨hlt, hbit, hlow⟩ := firstOneFrom_spec (fuel := 16) (Nat.zero_le j) (by omega) hset
  exact ⟨by rwa [Nat.zero_add] at hlt, hbit, fun m => hlow m m.zero_le⟩

theorem ctz16_two_pow {k : Nat} (hk : k < 16) : ctz16 (BitVec.ofNat 16 (2 ^ k)) = k := by
  have hbits : ∀ j < 16, (BitVec.ofNat 16 (2 ^ k)).getLsbD j = decide (k = j) := fun j hj => by
    rw [BitVec.getLsbD_ofNat, Nat.testBit_two_pow, decide_eq_true hj, Bool.true_and]
  have hne : BitVec.ofNat 16 (2 ^ k) ≠ 0#16 := fun h => absurd (h ▸ hbits k hk) (by simp)
  obtain ⟨hlt, hset, -⟩ := ctz16_spec hne
  rw [hbits _ hlt, decide_eq_true_iff] at hset
  exact hset.symm

/-- Settles O16: the count of set bits and the search for the first one, each said for every word. -/
theorem powerOfTwoTestAndTrailingZeros : Obligations.PowerOfTwoTestAndTrailingZeros :=
  ⟨fun _ => isPow2_iff_exists_toNat, fun _ => isPow2_iff_and_sub_one, fun _ => ctz16_spec, fun _ => ctz16_two_pow⟩

end Sys2Proof.Machine
end

section
/-! PROOFS. The encoder undoes the decoder (30_encoding.md R34, R35). -/

namespace Sys2Proof

variable (w : CmdWord)

/-- The two fields make up the whole word (R34). -/
theorem opField_append_argField : (opField w ++ argField w : CmdWord) = w := by
  rw [opField, argField, BitVec.extractLsb'_append_extractLsb'_eq_extractLsb' (by decide)]
  exact BitVec.extractLsb'_eq_self

theorem operand_decode : (decode w).operand = argField w := by
  unfold decode
  split <;> rfl

theorem opcodeOf_decode : opcodeOf (decode w) = opField w := by
  unfold decode
  split <;> exact (BitVec.toFin_inj.mp ‹_›).symm

theorem encode_decode : encode (decode w) = w := by
  rw [encode, opcodeOf_decode, operand_decode, opField_append_argField]

end Sys2Proof
end

section
/-! PROOFS. Construction and the well-formed triples: every triple that CONSTRUCT builds is well formed, and every
well-formed triple is the one CONSTRUCT builds for its own divisor (10_state.md R15, R17, R19). -/

namespace Sys2Proof.Machine

variable {d : Half} {t : Reciprocal}

/-- The mask's subtraction does not wrap (R60). -/
theorem toNat_sub_one_of_ne_zero (hd : d ≠ 0#16) : (d - 1#16).toNat = d.toNat - 1 := by
  bv_omega

theorem zext32_trunc16 {v : Word} (h : v.toNat ≤ 65535) : zext32 (trunc16 v) = v := by
  rw [← BitVec.toNat_inj, zext32_toNat, trunc16_toNat]
  omega

theorem trunc16_zext32 (d : Half) : trunc16 (zext32 d) = d := by
  rw [← BitVec.toNat_inj, trunc16_toNat, zext32_toNat, Nat.mod_eq_of_lt d.isLt]

theorem ne_two_pow_of_not_isPow2 (hp : isPow2 d = false) {k : Nat} (hk : k < 16) : d.toNat ≠ 2 ^ k := fun h => by
  simpa [hp] using isPow2_iff_exists_toNat.mpr ⟨k, hk, h⟩

/-- Neither 0 nor 1 nor 2 is a general-path divisor, so the least one is 3 (R15). -/
theorem three_le_of_general (hp : isPow2 d = false) (hd : d ≠ 0#16) : 3 ≤ d.toNat := by
  have h0 : d.toNat ≠ 0 := fun h => hd (BitVec.toNat_inj.mp h)
  have h1 : d.toNat ≠ 2 ^ 0 := ne_two_pow_of_not_isPow2 hp (by decide)
  have h2 : d.toNat ≠ 2 ^ 1 := ne_two_pow_of_not_isPow2 hp (by decide)
  omega

/-- The triple of `2^k` (R47): shift `k` and mask `2^k - 1`. -/
theorem buildReciprocal_two_pow {k : Nat} (hk : k < 16) :
    buildReciprocal (BitVec.ofNat 16 (2 ^ k)) =
      some { dmd := BitVec.ofNat 32 (2 ^ k - 1), mult := BitVec.ofNat 32 k, pow2 := true } := by
  have hlt : 2 ^ k < 2 ^ 16 := Nat.pow_lt_pow_right (by decide) hk
  have hpos : 0 < 2 ^ k := Nat.two_pow_pos k
  have hnat : (BitVec.ofNat 16 (2 ^ k)).toNat = 2 ^ k := Nat.mod_eq_of_lt hlt
  have hne : BitVec.ofNat 16 (2 ^ k) ≠ 0#16 := fun h => hpos.ne (by simpa [h] using hnat)
  have hmask : zext32 (BitVec.ofNat 16 (2 ^ k) - 1#16) = BitVec.ofNat 32 (2 ^ k - 1) := by
    rw [← BitVec.toNat_inj, zext32_toNat, toNat_sub_one_of_ne_zero hne, hnat, BitVec.toNat_ofNat,
      Nat.mod_eq_of_lt (by omega)]
  rw [buildReciprocal, if_pos (isPow2_iff_exists_toNat.mpr ⟨k, hk, hnat⟩), powerOfTwoTriple, hmask, ctz16_two_pow hk]

theorem buildReciprocal_general (hp : isPow2 d = false) (hd : d ≠ 0#16) :
    buildReciprocal d = some (generalTriple d) := by
  rw [buildReciprocal, if_neg (by simp [hp]), if_neg hd]

theorem ne_zero_of_buildReciprocal (h : buildReciprocal d = some t) : d ≠ 0#16 := fun hd => by
  simp [buildReciprocal_eq_none.mpr hd] at h

theorem wf_of_buildReciprocal (h : buildReciprocal d = some t) : t.wf = true := by
  cases hp : isPow2 d with
  | true =>
    obtain ⟨k, hk, hnat⟩ := isPow2_iff_exists_toNat.mp hp
    obtain rfl : d = BitVec.ofNat 16 (2 ^ k) := by simp [← hnat]
    rw [buildReciprocal_two_pow hk] at h
    cases h
    have hmult : (BitVec.ofNat 32 k).toNat = k := Nat.mod_eq_of_lt (by omega)
    rw [Reciprocal.wf_pow2 rfl, hmult]
    exact ⟨by omega, rfl⟩
  | false =>
    have hd := ne_zero_of_buildReciprocal h
    rw [buildReciprocal_general hp hd] at h
    cases h
    rw [Reciprocal.wf_general rfl, generalTriple, zext32_toNat, trunc16_zext32]
    exact ⟨three_le_of_general hp hd, by omega, hp, rfl⟩

/-- The shift of a well-formed triple is small enough for its mask `2^k - 1` not to wrap (R15). -/
theorem dmd_toNat_of_pow2 (hp : t.pow2 = true) (h : t.wf = true) : t.dmd.toNat = 2 ^ t.mult.toNat - 1 := by
  obtain ⟨hk, hdmd⟩ := (Reciprocal.wf_pow2 hp).mp h
  have hlt : 2 ^ t.mult.toNat < 2 ^ 16 := Nat.pow_lt_pow_right (by decide) (by omega)
  rw [hdmd, BitVec.toNat_ofNat, Nat.mod_eq_of_lt (by omega)]

theorem divisor_of_pow2 (hp : t.pow2 = true) (h : t.wf = true) : t.divisor = 2 ^ t.mult.toNat := by
  rw [Reciprocal.divisor, if_pos hp, dmd_toNat_of_pow2 hp h, Nat.sub_add_cancel (Nat.two_pow_pos _)]

theorem divisor_of_general (hp : t.pow2 = false) : t.divisor = t.dmd.toNat := by
  simp [Reciprocal.divisor, hp]

theorem divisor_ne_zero (h : t.wf = true) : t.divisor ≠ 0 := by
  cases hp : t.pow2 with
  | true => simp [divisor_of_pow2 hp h]
  | false =>
    obtain ⟨hlow, -⟩ := (Reciprocal.wf_general hp).mp h
    rw [divisor_of_general hp]
    omega

/-- The divisor of a well-formed triple is recoverable: construction of it builds that triple (R15). -/
theorem buildReciprocal_divisor (h : t.wf = true) :
    buildReciprocal (BitVec.ofNat 16 t.divisor) = some t := by
  cases hp : t.pow2 with
  | true =>
    obtain ⟨hk, hdmd⟩ := (Reciprocal.wf_pow2 hp).mp h
    rw [divisor_of_pow2 hp h, buildReciprocal_two_pow (by omega), ← hdmd, BitVec.ofNat_toNat, BitVec.setWidth_eq, ← hp]
  | false =>
    obtain ⟨hlow, hhigh, hnp, hmult⟩ := (Reciprocal.wf_general hp).mp h
    have htrunc : BitVec.ofNat 16 t.divisor = trunc16 t.dmd := by rw [divisor_of_general hp, BitVec.ofNat_toNat, trunc16]
    have hne : trunc16 t.dmd ≠ 0#16 := fun h0 => by
      rw [← zext32_trunc16 hhigh, h0] at hlow
      exact absurd hlow (by decide)
    rw [htrunc, buildReciprocal_general hnp hne, generalTriple, zext32_trunc16 hhigh, ← hmult, ← hp]

/-- The bounds of a general-path constant follow from those of its divisor (R19). -/
theorem magicConstant_bounds {v : Word} (hlow : 3 ≤ v.toNat) (hhigh : v.toNat ≤ 65535) :
    65538 ≤ (magicConstant v).toNat ∧ (magicConstant v).toNat ≤ 1431655766 := by
  have hmin : (2 ^ 32 - 1) / 65535 ≤ (2 ^ 32 - 1) / v.toNat := Nat.div_le_div_left hhigh (by omega)
  have hmax : (2 ^ 32 - 1) / v.toNat ≤ (2 ^ 32 - 1) / 3 := Nat.div_le_div_left hlow (by decide)
  rw [magicConstant_toNat (by omega)]
  omega

/-- Settles O44: the ranges of the shift and of the divisor are the invariant's own, those of the mask and of the
constant follow from them. -/
theorem registerRangesOfValidStates : Obligations.RegisterRangesOfValidStates := by
  intro s hs hv
  refine ⟨fun hp => ?_, fun hp => ?_⟩
  · obtain ⟨hk, -⟩ := (Reciprocal.wf_pow2 hp).mp (hs hv)
    have hpow : 2 ^ s.recip.mult.toNat ≤ 2 ^ 15 := Nat.pow_le_pow_right (by decide) hk
    rw [dmd_toNat_of_pow2 hp (hs hv)]
    exact ⟨hk, by omega⟩
  · obtain ⟨hlow, hhigh, -, hmult⟩ := (Reciprocal.wf_general hp).mp (hs hv)
    obtain ⟨hmin, hmax⟩ := hmult ▸ magicConstant_bounds hlow hhigh
    exact ⟨hlow, hhigh, hmin, hmax, BitVec.msb_eq_false_iff_two_mul_lt.mpr (by omega)⟩

/-- Settles O45: both directions, by the flag of the triple and by the variant of the union. -/
theorem taggedUnionViewIsOneToOne : Obligations.TaggedUnionViewIsOneToOne := by
  constructor
  · rintro ⟨dmd, mult, _ | _⟩ <;> rfl
  · rintro (⟨shift, mask⟩ | ⟨multiplier, divisor⟩) <;> rfl

end Sys2Proof.Machine
end

section
/-! PROOFS. What commands write, which of them are refused, and what an engine without a triple shows (10_state.md R13,
R16; 93_implementation_defined.md U7). -/

namespace Sys2Proof.Machine

variable {s t : State} {i : Instr}

/-- A command either is the CONSTRUCT whose triple it loads, or leaves the triple and `VALID` alone (R16). -/
theorem exec_next_triple (h : exec i s = .next t) :
    (∃ d, i = .construct d ∧ t.valid = true ∧ buildReciprocal d = some t.recip) ∨
      (t.recip = s.recip ∧ t.valid = s.valid) := by
  obtain ⟨-, ⟨d, r, hi, hb, rfl⟩ | ⟨-, -, rfl⟩ | ⟨-, rfl⟩ | ⟨-, -, rfl⟩ | ⟨-, rfl⟩⟩ := exec_next h
  · exact .inl ⟨d, hi, rfl, hb⟩
  all_goals exact .inr ⟨rfl, rfl⟩

/-- Every command that answers a next state gives one response (R39). -/
theorem exec_next_response (h : exec i s = .next t) : ∃ r, t.responses = s.responses ++ [r] := by
  obtain ⟨-, ⟨d, r, -, -, rfl⟩ | ⟨-, -, rfl⟩ | ⟨-, rfl⟩ | ⟨-, -, rfl⟩ | ⟨-, rfl⟩⟩ := exec_next h <;>
    exact ⟨_, rfl⟩

theorem execConstruct_of_build {d : Half} {r : Reciprocal} (hf : s.fault = none) (hb : buildReciprocal d = some r) :
    execConstruct d s = .next ((s.load r).respond .constructed) := by
  rw [execConstruct, whenUnfaulted_of_unfaulted hf, hb]

theorem execConstruct_zero (hf : s.fault = none) : execConstruct 0#16 s = .next (s.raise .divideByZero) := by
  rw [execConstruct, whenUnfaulted_of_unfaulted hf, buildReciprocal_zero]

theorem raiseIllegal_of_unfaulted (hf : s.fault = none) : raiseIllegal s = .next (s.raise .illegalCommand) := by
  rw [raiseIllegal, whenUnfaulted_of_unfaulted hf]

/-- An operation behind the first test of the dispatch is refused only in an unfaulted engine. -/
theorem whenUnfaulted_refused {act : State → Result} {r : Refusal} :
    whenUnfaulted s act = .refused r ↔ s.fault = none ∧ act s = .refused r := by
  cases hf : s.fault with
  | none => simp [whenUnfaulted_of_unfaulted hf]
  | some c => simp [whenUnfaulted_of_faulted hf]

theorem answerQuery_refused {answer : Reciprocal → Response} {r : Refusal} :
    answerQuery s answer = .refused r ↔
      r = .illFormedReciprocal ∧ s.fault = none ∧ s.valid = true ∧ s.recip.wf = false := by
  rw [answerQuery, whenUnfaulted_refused]
  cases s.valid <;> cases s.recip.wf <;> simp [and_comm, eq_comm]

theorem execConstruct_not_refused (d : Half) (r : Refusal) : execConstruct d s ≠ .refused r := fun h => by
  obtain ⟨-, h⟩ := whenUnfaulted_refused.mp h
  split at h <;> cases h

theorem raiseIllegal_not_refused (r : Refusal) : raiseIllegal s ≠ .refused r := fun h => by
  obtain ⟨-, h⟩ := whenUnfaulted_refused.mp h
  cases h

theorem not_isQuery_of_isReserved (h : isReserved i = true) : isQuery i = false := by
  cases i <;> simp_all [isQuery, isReserved]

/-- Settles O33: by the kind of the command; only the shared operation of the queries has a refusal. -/
theorem onlyIllFormedTriplesAreRefused : Obligations.OnlyIllFormedTriplesAreRefused := by
  intro s i r
  obtain ⟨d, rfl⟩ | hq | hr := instr_kinds i
  · simp [exec_construct, execConstruct_not_refused, isQuery]
  · simp [exec_query hq, answerQuery_refused, hq]
  · simp [exec_reserved hr, raiseIllegal_not_refused, not_isQuery_of_isReserved hr]

/-- Settles O46: the environment and the response by the lemmas for all commands, each row of R16's table by the
inversion of its kind of command. -/
theorem commandsWriteOnlyWhatTheTableSays : Obligations.CommandsWriteOnlyWhatTheTableSays := by
  intro s t i h
  obtain ⟨hmoves, huntaken⟩ := exec_next_environment h
  obtain ⟨hf, -⟩ := exec_next h
  refine ⟨hf, hmoves, huntaken, exec_next_response h, ?construct, ?zero, ?held, ?unconstructed, ?reserved⟩
  case construct =>
    rintro d rfl hd
    obtain ⟨-, ⟨r, hb, rfl⟩ | ⟨hb, -⟩⟩ := execConstruct_next h
    · exact ⟨hb.symm, rfl, hf⟩
    · exact absurd (buildReciprocal_eq_none.mp hb) hd
  case zero =>
    rintro rfl
    rw [exec_construct, execConstruct_zero hf] at h
    cases h
    exact ⟨rfl, rfl, rfl⟩
  case held =>
    intro hq hv
    rw [exec_query hq] at h
    obtain ⟨-, ⟨hv', -⟩ | ⟨-, -, rfl⟩⟩ := answerQuery_next h
    · simp [hv] at hv'
    · exact ⟨rfl, rfl, hf⟩
  case unconstructed =>
    intro hq hv
    rw [exec_query hq, answerQuery_unconstructed hf hv] at h
    cases h
    exact ⟨rfl, rfl, rfl⟩
  case reserved =>
    intro hr
    rw [exec_reserved hr, raiseIllegal_of_unfaulted hf] at h
    cases h
    exact ⟨rfl, rfl, rfl⟩

/-- While `VALID` is 0, a command does one of three things, the same whatever the triple is: it has no step, it loads
a triple of its own, or it raises a fault (R13). -/
theorem exec_unconstructed (hv : s.valid = false) (i : Instr) :
    (∃ c, ∀ r, exec i { s with recip := r } = .fault (.engineFaulted c)) ∨
      (∃ t, t.valid = true ∧ ∀ r, exec i { s with recip := r } = .next t) ∨
      (∃ c, ∀ r, exec i { s with recip := r } = .next ({ s with recip := r }.raise c)) := by
  obtain hf | ⟨c, hf⟩ := Option.eq_none_or_eq_some s.fault
  · obtain ⟨d, rfl⟩ | hq | hr := instr_kinds i
    · cases hb : buildReciprocal d with
      | some r => exact .inr (.inl ⟨(s.load r).respond .constructed, rfl, fun _ => execConstruct_of_build hf hb⟩)
      | none =>
        rw [buildReciprocal_eq_none.mp hb]
        exact .inr (.inr ⟨.divideByZero, fun _ => execConstruct_zero hf⟩)
    · simp only [exec_query hq]
      exact .inr (.inr ⟨.notConstructed, fun _ => answerQuery_unconstructed hf hv⟩)
    · simp only [exec_reserved hr]
      exact .inr (.inr ⟨.illegalCommand, fun _ => raiseIllegal_of_unfaulted hf⟩)
  · exact .inl ⟨c, fun r => exec_of_faulted (s := { s with recip := r }) hf i⟩

/-- Settles O54: in each of the three cases the two runs are given by the one equation. -/
theorem unconstructedTripleIsUnobservable : Obligations.UnconstructedTripleIsUnobservable := by
  intro s a b i hv
  obtain ⟨c, h⟩ | ⟨u, hu, h⟩ | ⟨c, h⟩ := exec_unconstructed hv i
  all_goals simp only [h]
  · exact ⟨nofun, fun f hf => hf, nofun⟩
  · exact ⟨fun t ht => .inl ⟨by cases ht; exact hu, ht⟩, nofun, nofun⟩
  · exact ⟨fun t ht => .inr (by cases ht; exact ⟨hv, rfl, rfl⟩), nofun, nofun⟩

end Sys2Proof.Machine
end

section
/-! PROOFS. The invariant of well-formed states along the steps and runs of the machine, and which steps write the
triple (10_state.md R10 to R15, R21, R22). -/

namespace Sys2Proof.Machine

/-- Settles O11: with no move there is no reset to meet either, so the engine is idle. -/
theorem idleEngineKeepsItsState : Obligations.IdleEngineKeepsItsState := by
  intro s h
  rw [step_of_meetFirst (meetNext_no_reset (by simp [h])), h]

/-- Settles O42: the reset state holds no triple, no fault and no move. -/
theorem resetStateIsWellFormed : Obligations.ResetStateIsWellFormed :=
  ⟨nofun, rfl, rfl, rfl, rfl⟩

/-- No command breaks the invariant: what CONSTRUCT loads is well formed, and the rest leave the triple alone. -/
theorem exec_keeps_wellFormed {s t : State} {i : Instr} (hs : s.WellFormed) (h : exec i s = .next t) :
    t.WellFormed := by
  obtain ⟨d, -, -, hb⟩ | ⟨hrecip, hvalid⟩ := exec_next_triple h
  · exact fun _ => wf_of_buildReciprocal hb
  · rwa [State.WellFormed, hrecip, hvalid]

/-- Settles O41: by what a step can do; an idle step changes nothing, a reset clears `VALID`, a command keeps the
invariant. -/
theorem stepKeepsStatesWellFormed : Obligations.StepKeepsStatesWellFormed := by
  intro s t hs h
  obtain ⟨-, rfl⟩ | ⟨ws, ms, -, -, rfl⟩ | ⟨w, ms, -, -, hexec⟩ := step_next h
  · exact hs
  · exact nofun
  · exact exec_keeps_wellFormed (s := { s with moves := ms }) hs hexec

theorem wellFormed_of_reaches {ms : List HostMove} {k : Nat} {s : State} (h : Reaches ms k s) : s.WellFormed :=
  run_keeps (P := State.WellFormed) stepKeepsStatesWellFormed (s := State.start ms) nofun h

/-- Settles O43: the invariant of every reachable state, read in numbers, and the divisor of its triple. -/
theorem reachableStatesAreWellFormed : Obligations.ReachableStatesAreWellFormed := by
  intro ms k s hreach
  have hwf : s.WellFormed := wellFormed_of_reaches hreach
  refine ⟨?_, fun hv => ⟨divisor_ne_zero (hwf hv), buildReciprocal_divisor (hwf hv)⟩⟩
  cases hv : s.valid with
  | false => exact .inl rfl
  | true =>
    cases hp : s.recip.pow2 with
    | true =>
      obtain ⟨hk, -⟩ := (Reciprocal.wf_pow2 hp).mp (hwf hv)
      exact .inr (.inl ⟨rfl, rfl, _, hk, rfl, dmd_toNat_of_pow2 hp (hwf hv)⟩)
    | false =>
      obtain ⟨hlow, hhigh, hnp, hmult⟩ := (Reciprocal.wf_general hp).mp (hwf hv)
      have hpow : ∀ j, j < 16 → s.recip.dmd.toNat ≠ 2 ^ j := fun j hj => by
        rw [← zext32_trunc16 hhigh, zext32_toNat]
        exact ne_two_pow_of_not_isPow2 hnp hj
      exact .inr (.inr ⟨rfl, rfl, hlow, hhigh, hpow, by rw [hmult, magicConstant_toNat (by omega)]⟩)

/-- Settles O47: an idle step and every command but CONSTRUCT leave the triple and `VALID` alone. -/
theorem onlyConstructAndResetWriteTheTriple : Obligations.OnlyConstructAndResetWriteTheTriple := by
  intro s t h hchange
  obtain ⟨-, rfl⟩ | ⟨ws, ms, hmoves, hws, rfl⟩ | ⟨w, ms, hmoves, hf, hexec⟩ := step_next h
  · simp at hchange
  · exact .inr ⟨ws, ms, hmoves, hws, rfl⟩
  · obtain ⟨d, hd, hv, hb⟩ | ⟨hrecip, hvalid⟩ := exec_next_triple hexec
    · rw [← encode_decode w, hd] at hmoves
      exact .inl ⟨d, ms, ne_zero_of_buildReciprocal hb, hf, hmoves, hv, hb.symm⟩
    · simp [hrecip, hvalid] at hchange

end Sys2Proof.Machine
end

section
/-! PROOFS. The decoder undoes the encoder (30_encoding.md R34, R35). -/

namespace Sys2Proof

theorem decode_encode (i : Instr) : decode (encode i) = i := by
  obtain ⟨hop, harg⟩ := Laws.fields_of_append (opcodeOf i) i.operand
  rw [encode, decode, hop, harg]
  cases i <;> rfl

end Sys2Proof
end

section
/-! PROOFS. Commands one after the other: the step of a presented command, a CONSTRUCT repeated, and the queries of a
ready engine in any order (20_memory.md R26, R28, R30). -/

namespace Sys2Proof.Machine

variable {s : State}

/-- Settles O7: an unfaulted engine meets the first of the host's moves. -/
theorem stepRunsThePresentedCommand : Obligations.StepRunsThePresentedCommand := by
  intro s w ms hf hm
  rw [step_of_meetFirst (meetNext_of_unfaulted hf), hm]

/-- Settles O18: the triple is a function of the divisor alone, so the second CONSTRUCT loads the one already held. -/
theorem constructIsIdempotent : Obligations.ConstructIsIdempotent := by
  intro s d hf hd
  obtain ⟨r, hb⟩ := Option.ne_none_iff_exists'.mp (mt buildReciprocal_eq_none.mp hd)
  exact ⟨_, _, execConstruct_of_build hf hb, execConstruct_of_build hf hb, rfl, rfl, rfl⟩

/-- A ready engine answers a query from its triple and changes nothing else (R51, R58). -/
theorem exec_query_of_ready {i : Instr} (hs : s.Ready) (hq : isQuery i = true) :
    exec i s = .next (s.respond (queryAnswer i s.recip)) := by
  obtain ⟨hf, hv, hw⟩ := hs
  rw [exec_query hq, answerQuery_answers hf hv hw]

/-- A ready engine takes the query presented to it in one step. -/
theorem step_query_of_ready {i : Instr} (ms : List HostMove) (hs : s.Ready) (hq : isQuery i = true) :
    step { s with moves := .command (encode i) :: ms } =
      .next { s with moves := ms, responses := s.responses ++ [queryAnswer i s.recip] } := by
  have hf : s.fault = none := hs.left
  rw [stepRunsThePresentedCommand { s with moves := .command (encode i) :: ms } (encode i) ms hf rfl, decode_encode]
  exact exec_query_of_ready (s := { s with moves := ms }) hs hq

/-- A ready engine answers a list of queries one by one from the triple it holds, and stays ready throughout. -/
theorem run_queries_of_ready (qs : List Instr) (ms : List HostMove) (hs : s.Ready) (hqs : ∀ i ∈ qs, isQuery i = true) :
    Host.Core.run Sys2Proof.core qs.length { s with moves := qs.map (fun i => .command (encode i)) ++ ms } =
      .next { s with moves := ms, responses := s.responses ++ qs.map (queryAnswer · s.recip) } := by
  induction qs generalizing s with
  | nil => simp [run_zero]
  | cons i qs ih =>
    obtain ⟨hi, hrest⟩ := List.forall_mem_cons.mp hqs
    have hstep := step_query_of_ready (qs.map (fun i => .command (encode i)) ++ ms) hs hi
    have hrun := ih (s := s.respond (queryAnswer i s.recip)) hs hrest
    refine (run_succ_of_step hstep).trans (hrun.trans ?_)
    simp [State.respond]

/-- Settles O40: each query's one response is what the held triple answers it, wherever the query stands. -/
theorem everyInterleavingOfQueriesAnswersAlike : Obligations.EveryInterleavingOfQueriesAnswersAlike :=
  fun s hs => ⟨(queryAnswer · s.recip), fun qs ms hqs => run_queries_of_ready qs ms hs hqs⟩

end Sys2Proof.Machine
end

section
/-! PROOFS. Words and commands determine each other: the fields of a word as numbers, the rows of the opcode map, the
round trips of encoder and decoder, and which numbers are words (30_encoding.md R34 to R38). -/

namespace Sys2Proof

/-- Settles O3: the encoder carries both fields, so the decoder reads back the row and its operand. -/
theorem decodeOfEncodeIsIdentity : Obligations.DecodeOfEncodeIsIdentity :=
  fun i => ⟨Laws.operand_fits i, decode_encode i⟩

/-- Settles O4: by the two round trips. -/
theorem everyWordSpellsExactlyOneCommand : Obligations.EveryWordSpellsExactlyOneCommand :=
  fun w => ⟨encode_decode w, fun i h => by rw [← h, decode_encode]⟩

theorem opField_toNat (w : CmdWord) : (opField w).toNat = w.toNat / 65536 := by
  have := w.isLt
  rw [opField, BitVec.extractLsb'_toNat, Nat.shiftRight_eq_div_pow]
  omega

theorem argField_toNat (w : CmdWord) : (argField w).toNat = w.toNat % 65536 := by
  rw [argField, BitVec.extractLsb'_toNat, Nat.shiftRight_zero]

theorem toNat_eq_fields (w : CmdWord) : w.toNat = (opField w).toNat * 65536 + (argField w).toNat := by
  rw [opField_toNat, argField_toNat, Nat.div_add_mod']

theorem encode_toNat (i : Instr) : (encode i).toNat = (opcodeOf i).toNat * 65536 + i.operand.toNat := by
  obtain ⟨hop, harg⟩ := Laws.fields_of_append (opcodeOf i) i.operand
  rw [toNat_eq_fields, encode, hop, harg]

/-- Settles O1: the fields are quotient and remainder by 65536, for a command's word its opcode and operand. -/
theorem commandWordFields : Obligations.CommandWordFields :=
  ⟨fun w => ⟨opField_toNat w, argField_toNat w, toNat_eq_fields w, w.isLt⟩, encode_toNat⟩

/-- A command is what a word spells as soon as its opcode and its operand stand in the fields. -/
theorem decode_of_fields {w : CmdWord} (i : Instr) (hop : opField w = opcodeOf i) (harg : argField w = i.operand) :
    decode w = i := by
  rw [← decode_encode i, encode, ← hop, ← harg, opField_append_argField]

/-- The mask of R35 keeps the opcode and clears the argument. -/
theorem and_mask_eq (w : CmdWord) : w &&& 0x70000#19 = opField w ++ 0#16 := by
  have hmask : 0x70000#19 = (BitVec.allOnes 3 ++ 0#16 : CmdWord) := by decide
  conv_lhs => rw [← opField_append_argField w, hmask, BitVec.and_append, BitVec.and_allOnes, BitVec.and_zero]

theorem opField_and_mask (w : CmdWord) : opField (w &&& 0x70000#19) = opField w := by
  rw [and_mask_eq, (Laws.fields_of_append _ _).left]

/-- The command is that of the row whose match the masked word is: the match has the row's opcode (R35). -/
theorem decode_of_row {w rowMatch : CmdWord} (i : Instr) (hop : opField rowMatch = opcodeOf i)
    (harg : argField w = i.operand) (h : w &&& 0x70000#19 = rowMatch) : decode w = i :=
  decode_of_fields i (by rw [← opField_and_mask, h, hop]) harg

/-- The masked word is the match of the row of the command it spells (R35). -/
theorem and_mask_eq_match_of_decode (w : CmdWord) : w &&& 0x70000#19 = opcodeOf (decode w) ++ 0#16 := by
  rw [and_mask_eq, opcodeOf_decode]

/-- Settles O2: each match is the opcode of its row over a clear argument; that there is no ninth value is the case
split on the command the word spells. -/
theorem opcodeMapByMask : Obligations.OpcodeMapByMask := by
  intro w a ha
  have harg : argField w = a := by rw [ha, ← BitVec.toNat_inj, argField_toNat, BitVec.toNat_ofNat]
  refine ⟨decode_of_row (.construct a) rfl harg, decode_of_row (.div a) rfl harg, decode_of_row (.mod a) rfl harg,
    decode_of_row (.divmod a) rfl harg, decode_of_row (.divisible a) rfl harg, decode_of_row (.reserved5 a) rfl harg,
    decode_of_row (.reserved6 a) rfl harg, decode_of_row (.reserved7 a) rfl harg, ?_⟩
  rw [and_mask_eq_match_of_decode]
  cases decode w <;> simp [opcodeOf]

/-- Settles O5: each word is the one its command is encoded as. -/
theorem sampleWordsDecode : Obligations.SampleWordsDecode :=
  ⟨decode_encode (.construct 7#16), decode_encode (.div 100#16), decode_encode (.mod 65535#16),
    decode_encode (.divmod 100#16), decode_encode (.divisible 25#16), decode_encode (.reserved5 0#16),
    decode_encode (.reserved6 43981#16), decode_encode (.reserved7 65535#16)⟩

theorem wordNumber_of_lt {w : Nat} (h : w < 2 ^ 19) : WellFormed.wordNumber w = true := decide_eq_true h

theorem wordNumber_of_le {w : Nat} (h : 2 ^ 19 ≤ w) : WellFormed.wordNumber w = false :=
  decide_eq_false h.not_gt

theorem decodeNumber_of_lt {w : Nat} (h : w < 2 ^ 19) : decodeNumber w = .ok (decode (BitVec.ofNat 19 w)) :=
  if_pos (wordNumber_of_lt h)

/-- Settles O6: by the one test of the decoder of numbers. -/
theorem widerNumbersAreNoCommand : Obligations.WiderNumbersAreNoCommand :=
  fun _ => ⟨decodeNumber_of_lt, fun h => by simp [decodeNumber, wordNumber_of_le h]⟩

/-- The table's 24 bits hold every command word. -/
theorem tableNumber_of_lt {w : Nat} (h : w < 2 ^ 19) : tableNumber 24 w = w :=
  Nat.mod_eq_of_lt (h.trans (by decide))

theorem decodeTableWord_of_lt {w : Nat} (h : w < 2 ^ 19) :
    decodeTableWord 24 w = some (decode (BitVec.ofNat 19 w)) := by
  rw [decodeTableWord, tableNumber_of_lt h, decodeNumber_of_lt h]

end Sys2Proof
end

section
/-! PROOFS. How words come to be presented: a word of the opcode table, and the lines of a program (30_encoding.md R42
to R44). -/

namespace Sys2Proof.Machine

theorem withFetchWord_of_lt {w : Nat} (s : State) (h : w < 2 ^ 19) :
    s.withFetchWord 24 w = s.present (BitVec.ofNat 19 w) := by
  rw [State.withFetchWord, tableNumber_of_lt h, if_pos (wordNumber_of_lt h)]

/-- Settles O12: the word is presented in front of no other move, and the step takes it. -/
theorem presentedTableWordRunsFirst : Obligations.PresentedTableWordRunsFirst := by
  intro w hw
  refine ⟨decodeTableWord_of_lt hw, ?_⟩
  rw [withFetchWord_of_lt _ hw]
  exact stepRunsThePresentedCommand (State.reset.present _) _ [] rfl rfl

theorem Mnemonic.operand_instr (m : Mnemonic) (a : Half) : (m.instr a).operand = a := by
  cases m <;> rfl

theorem assembleLine_of_not_wf {l : AsmLine} (h : l.wf = false) : assembleLine l = .error .outOfRange := by
  simp [assembleLine, h]

theorem assembleLine_command {a : Nat} (m : Mnemonic) (h : a < 2 ^ 16) :
    assembleLine (.command m a) = .ok (.command (encode (m.instr (BitVec.ofNat 16 a)))) :=
  if_pos (decide_eq_true h)

theorem assembleLine_word {w : Nat} (h : w < 2 ^ 19) : assembleLine (.word w) = .ok (.command (BitVec.ofNat 19 w)) :=
  if_pos (wordNumber_of_lt h)

/-- Settles O56: a line in range is assembled by its form, and for a mnemonic by the encoder, which the decoder
undoes. -/
theorem assembledLinesStandForTheirWords : Obligations.AssembledLinesStandForTheirWords := by
  refine ⟨fun m a ha => ⟨_, assembleLine_command m (by omega), ?_, decode_encode _⟩,
    fun m a ha => assembleLine_of_not_wf (decide_eq_false (by omega)), fun _ => assembleLine_word,
    fun w hw => assembleLine_of_not_wf (wordNumber_of_le hw), rfl⟩
  rw [encode_toNat, Mnemonic.operand_instr, BitVec.toNat_ofNat]
  omega

end Sys2Proof.Machine
end

section
/-! PROOFS. One response for each command taken, with its result fields, and the count of commands along a step
(30_encoding.md R33, R39 to R41). -/

namespace Sys2Proof.Machine

variable {s t : State} {i : Instr}

theorem length_filter_isCommand_cons (w : CmdWord) (ms : List HostMove) :
    ((HostMove.command w :: ms).filter isCommand).length = (ms.filter isCommand).length + 1 := rfl

theorem length_filter_isCommand_reset (ws : List CmdWord) (ms : List HostMove) :
    ((ws.map HostMove.command ++ HostMove.reset :: ms).filter isCommand).length =
      ws.length + (ms.filter isCommand).length := by
  induction ws with
  | nil => simp [isCommand]
  | cons w ws ih =>
    rw [List.map_cons, List.cons_append, length_filter_isCommand_cons, ih, List.length_cons, Nat.add_right_comm]

/-- Settles O57: an idle step changes no list, a reset makes the words before it untaken ones, and a command goes from
the moves to the responses. -/
theorem stepAccountsForEveryCommand : Obligations.StepAccountsForEveryCommand := by
  intro s t h
  obtain ⟨-, rfl⟩ | ⟨ws, ms, hmoves, -, rfl⟩ | ⟨w, ms, hmoves, -, hexec⟩ := step_next h
  · rfl
  · simp only [hmoves, length_filter_isCommand_reset, List.length_append, State.hostReset_responses]
    omega
  · obtain ⟨hms, huntaken⟩ := exec_next_environment hexec
    obtain ⟨r, hr⟩ := exec_next_response hexec
    simp only [hms, huntaken, hr, hmoves, length_filter_isCommand_cons, List.length_append, List.length_singleton]
    omega

/-- A command is taken exactly when an unfaulted engine has a command word as the host's next move (R33). -/
theorem commandTaken_iff : commandTaken s = true ↔ s.fault = none ∧ ∃ w ms, s.moves = .command w :: ms := by
  rw [commandTaken, cmdValid, cmdReady, rst, presentedWord]
  obtain _ | ⟨_ | _, ms⟩ := s.moves <;> simp

/-- An unfaulted engine in a well-formed state has a next state for every command (R95). -/
theorem exec_answers (hs : s.WellFormed) (hf : s.fault = none) (i : Instr) : ∃ t, exec i s = .next t := by
  obtain ⟨d, rfl⟩ | hq | hr := instr_kinds i
  · cases hb : buildReciprocal d with
    | some r => exact ⟨_, execConstruct_of_build hf hb⟩
    | none => exact ⟨_, buildReciprocal_eq_none.mp hb ▸ execConstruct_zero hf⟩
  · rw [exec_query hq]
    cases hv : s.valid with
    | false => exact ⟨_, answerQuery_unconstructed hf hv⟩
    | true => exact ⟨_, answerQuery_answers hf hv (hs hv)⟩
  · exact ⟨_, exec_reserved hr s ▸ raiseIllegal_of_unfaulted hf⟩

/-- A step that takes a command adds one response, and any other step adds none (R39). -/
theorem step_next_responses (h : step s = .next t) :
    (commandTaken s = true ∧ ∃ r, t.responses = s.responses ++ [r]) ∨
      (commandTaken s = false ∧ t.responses = s.responses) := by
  rw [← Bool.not_eq_true, commandTaken_iff]
  obtain ⟨hmoves, rfl⟩ | ⟨ws, ms, hmoves, hws, rfl⟩ | ⟨w, ms, hmoves, hf, hexec⟩ := step_next h
  · exact .inr ⟨by simp [hmoves], rfl⟩
  · refine .inr ⟨?_, rfl⟩
    rintro ⟨hf, w, ms', hmoves'⟩
    simp [hmoves, hws hf] at hmoves'
  · exact .inl ⟨⟨hf, w, ms, hmoves⟩, exec_next_response (s := { s with moves := ms }) hexec⟩

/-- From a well-formed state a command taken has a step. -/
theorem step_answers_of_commandTaken (hs : s.WellFormed) (h : commandTaken s = true) : ∃ t, step s = .next t := by
  obtain ⟨hf, w, ms, hmoves⟩ := commandTaken_iff.mp h
  rw [stepRunsThePresentedCommand s w ms hf hmoves]
  exact exec_answers (s := { s with moves := ms }) hs hf _

/-- `rsp_valid` after a step that answers says whether a command was taken (R33). -/
theorem rspValid_of_step_next (h : step s = .next t) : rspValid s (.next t) = commandTaken s := by
  obtain ⟨htaken, r, hr⟩ | ⟨htaken, hr⟩ := step_next_responses h
  · rw [rspValid, responseGiven_of_append hr, htaken, Option.isSome_some]
  · rw [rspValid, responseGiven_of_same hr, htaken, Option.isSome_none]

/-- Settles O49: a step that answers adds a response exactly for a command taken, and from a well-formed state only a
step that takes no command has no next state. -/
theorem oneResponsePerCommandTaken : Obligations.OneResponsePerCommandTaken := by
  constructor
  · intro s t h
    rw [h]
    obtain ⟨htaken, r, hr⟩ | ⟨htaken, hr⟩ := step_next_responses h
    · exact ⟨fun _ => ⟨r, hr, responseGiven_of_append hr⟩, by simp [htaken]⟩
    · exact ⟨by simp [htaken], fun _ => ⟨hr, responseGiven_of_same hr⟩⟩
  · intro s hs
    cases htaken : commandTaken s with
    | true =>
      obtain ⟨t, h⟩ := step_answers_of_commandTaken hs htaken
      rw [h, rspValid_of_step_next h, htaken]
    | false =>
      cases h : step s with
      | next t => rw [rspValid_of_step_next h, htaken]
      | fault f => rfl
      | refused r => rfl

/-- The one response of a command: that of a fault, that of a construction, or a query's answer (R39). -/
theorem exec_next_reply (h : exec i s = .next t) : ∃ r, t.responses = s.responses ++ [r] ∧
    ((∃ c, r = .failed c) ∨ (r = .constructed ∧ ∃ d, i = .construct d) ∨
      (isQuery i = true ∧ r = queryAnswer i s.recip)) := by
  obtain ⟨-, ⟨d, r, hi, -, rfl⟩ | ⟨hq, -, rfl⟩ | ⟨-, rfl⟩ | ⟨-, -, rfl⟩ | ⟨-, rfl⟩⟩ := exec_next h
  · exact ⟨_, rfl, .inr (.inl ⟨rfl, d, hi⟩)⟩
  · exact ⟨_, rfl, .inr (.inr ⟨hq, rfl⟩)⟩
  all_goals exact ⟨_, rfl, .inl ⟨_, rfl⟩⟩

theorem not_isReserved_of_isQuery (h : isQuery i = true) : isReserved i = false := by
  cases hr : isReserved i with
  | false => rfl
  | true => simp [not_isQuery_of_isReserved hr] at h

theorem rspStatus_failed_ne (c : Cause) : rspStatus (.failed c) ≠ 0#2 := by
  cases c <;> decide

theorem rspStatus_eq_zero_of_status {r : Response} (h : r.status = none) : rspStatus r = 0#2 := by
  rw [rspStatus, h, causeCode]

/-- Settles O50: by the form of the response; of a query's answer each query's own row of R41 is read off. -/
theorem meaningfulResultFields : Obligations.MeaningfulResultFields := by
  intro s t i h
  obtain ⟨r, hr, ⟨c, rfl⟩ | ⟨rfl, d, rfl⟩ | ⟨hq, rfl⟩⟩ := exec_next_reply h
  · exact ⟨_, hr, fun _ => ⟨rfl, rfl, rfl⟩, fun h0 => absurd h0 (rspStatus_failed_ne c)⟩
  · exact ⟨_, hr, fun _ => ⟨rfl, rfl, rfl⟩, fun _ => ⟨fun _ _ => ⟨rfl, rfl, rfl⟩, nofun, nofun, nofun, nofun, rfl⟩⟩
  · refine ⟨_, hr, fun hne => absurd (rspStatus_eq_zero_of_status (queryAnswer_status hq _)) hne, fun _ => ?_⟩
    refine ⟨?construct, ?div, ?mod, ?divmod, ?divisible, ?reserved⟩
    case construct => rintro d rfl; cases hq
    case reserved => exact not_isReserved_of_isQuery hq
    all_goals rintro n rfl; exact ⟨rfl, rfl, rfl⟩

end Sys2Proof.Machine
end

section
/-! PROOFS. What CONSTRUCT leaves for each kind of divisor: a power of two, a general-path divisor, zero, and a divisor
given while a triple is already held (40_construct.md R46 to R50). -/

namespace Sys2Proof.Machine

variable {s t : State} {d : Half}

/-- The path a triple records is the one the power-of-two test chose (R46, R47). -/
theorem pow2_of_buildReciprocal {r : Reciprocal} (h : buildReciprocal d = some r) : r.pow2 = isPow2 d := by
  cases hp : isPow2 d with
  | true =>
    rw [buildReciprocal, if_pos hp] at h
    cases h
    rfl
  | false =>
    rw [buildReciprocal_general hp (ne_zero_of_buildReciprocal h)] at h
    cases h
    rfl

/-- A CONSTRUCT that leaves no fault has loaded the triple of its divisor (R46, R48). -/
theorem buildReciprocal_of_exec_construct (h : exec (.construct d) s = .next t) (hf : t.fault = none) :
    buildReciprocal d = some t.recip := by
  obtain ⟨-, ⟨r, hb, rfl⟩ | ⟨-, rfl⟩⟩ := execConstruct_next h
  · exact hb
  · cases hf

/-- Settles O13: the next state by the triple of `2^k`, the converse by the test that chose the path. -/
theorem constructPowerOfTwo : Obligations.ConstructPowerOfTwo := by
  refine ⟨fun s k hf hk => execConstruct_of_build hf (buildReciprocal_two_pow hk), fun s t d h hf => ?_⟩
  rw [pow2_of_buildReciprocal (buildReciprocal_of_exec_construct h hf), isPow2_iff_exists_toNat]

theorem not_isPow2_of_generalDivisor (h : GeneralDivisor d) : isPow2 d = false := by
  obtain ⟨-, hpow⟩ := h
  rw [← Bool.not_eq_true, isPow2_iff_exists_toNat]
  rintro ⟨k, hk, hd⟩
  exact hpow k hk hd

theorem three_le_of_generalDivisor (h : GeneralDivisor d) : 3 ≤ d.toNat :=
  three_le_of_general (not_isPow2_of_generalDivisor h) h.left

/-- The triple of a general-path divisor in numbers (R49). -/
theorem generalTriple_eq (h : GeneralDivisor d) :
    generalTriple d =
      { dmd := BitVec.ofNat 32 d.toNat, mult := BitVec.ofNat 32 ((2 ^ 32 - 1) / d.toNat + 1), pow2 := false } := by
  have hd := three_le_of_generalDivisor h
  have hmult : (magicConstant (zext32 d)).toNat = (2 ^ 32 - 1) / d.toNat + 1 := by
    rw [magicConstant_toNat (by rw [zext32_toNat]; omega), zext32_toNat]
  rw [generalTriple, ← hmult, ← zext32_toNat, BitVec.ofNat_toNat, BitVec.ofNat_toNat, BitVec.setWidth_eq,
    BitVec.setWidth_eq]

/-- Settles O14: the least general-path divisor, 3, bounds the quotient, and CONSTRUCT loads the general triple. -/
theorem constructGeneralDivisor : Obligations.ConstructGeneralDivisor := by
  intro s d hf hd
  have hquot : (2 ^ 32 - 1) / d.toNat ≤ (2 ^ 32 - 1) / 3 :=
    Nat.div_le_div_left (three_le_of_generalDivisor hd) (by decide)
  refine ⟨hquot, ?_⟩
  rw [← generalTriple_eq hd]
  exact execConstruct_of_build hf (buildReciprocal_general (not_isPow2_of_generalDivisor hd) hd.left)

/-- Settles O15: CONSTRUCT 0 raises the fault, and a faulted engine has no step. -/
theorem constructZeroFaults : Obligations.ConstructZeroFaults :=
  fun _ hf => ⟨_, execConstruct_zero hf, rfl, rfl, exec_of_faulted rfl⟩

/-- An unfaulted engine that has loaded a built triple is ready (R15, R46). -/
theorem ready_of_load {r : Reciprocal} (hf : s.fault = none) (hb : buildReciprocal d = some r) :
    ((s.load r).respond .constructed).Ready :=
  ⟨hf, rfl, wf_of_buildReciprocal hb⟩

/-- Settles O17: both engines load the triple of `d` and are ready with it, so a query answers alike; a zero divisor
raises a fault, which leaves the triple and stops every command. -/
theorem reconstructionReplacesTheTriple : Obligations.ReconstructionReplacesTheTriple := by
  constructor
  · intro s u d hs hu hd
    obtain ⟨r, hb⟩ := Option.ne_none_iff_exists'.mp (mt buildReciprocal_eq_none.mp hd)
    exact ⟨_, _, execConstruct_of_build hs hb, execConstruct_of_build hu hb, ⟨rfl, rfl, hs.trans hu.symm⟩, rfl, hs,
      hb.symm, fun i hq => ⟨queryAnswer i r, exec_query_of_ready (ready_of_load hs hb) hq,
        exec_query_of_ready (ready_of_load hu hb) hq⟩⟩
  · intro s hf hv
    exact ⟨_, execConstruct_zero hf, rfl, hv, exec_of_faulted rfl⟩

end Sys2Proof.Machine
end

section
/-! PROOFS. The arithmetic behind the queries: what each answer is as a number, for any triple, and that for a
well-formed one it is exact (41_queries.md R52 to R55; 42_arithmetic_laws.md R62 to R67). -/

namespace Sys2Proof.Machine

/-- Neither the constant nor the divisor is 0, their product being at least `2^32`. -/
theorem factors_pos {M d e : Nat} (hM : M * d = 2 ^ 32 + e) : 0 < M ∧ 0 < d :=
  CanonicallyOrderedAdd.mul_pos.mp (by omega)

/-- A product of a dividend with a constant that exceeds `2^32 / d` a little splits into the quotient and a fraction,
and the fraction still holds the remainder (R63). -/
theorem magic_product_split {M d e n : Nat} (hM : M * d = 2 ^ 32 + e) (hen : e * n < 2 ^ 32) :
    ∃ L, L < 2 ^ 32 ∧ M * n = 2 ^ 32 * (n / d) + L ∧ L * d = 2 ^ 32 * (n % d) + e * n := by
  obtain ⟨-, hd⟩ := factors_pos hM
  have hn : d * (n / d) + n % d = n := Nat.div_add_mod n d
  have hL : (e * (n / d) + M * (n % d)) * d = 2 ^ 32 * (n % d) + e * n := by
    calc (e * (n / d) + M * (n % d)) * d
        = e * (d * (n / d)) + M * d * (n % d) := by ring
      _ = 2 ^ 32 * (n % d) + e * (d * (n / d) + n % d) := by rw [hM]; ring
      _ = 2 ^ 32 * (n % d) + e * n := by rw [hn]
  refine ⟨e * (n / d) + M * (n % d), ?_, ?_, hL⟩
  · have hmod : n % d < d := Nat.mod_lt n hd
    have hlt : (e * (n / d) + M * (n % d)) * d < 2 ^ 32 * d := by omega
    exact Nat.lt_of_mul_lt_mul_right hlt
  · calc M * n = M * (d * (n / d) + n % d) := by rw [hn]
      _ = M * d * (n / d) + M * (n % d) := by ring
      _ = 2 ^ 32 * (n / d) + (e * (n / d) + M * (n % d)) := by rw [hM]; ring

/-- The fraction tells whether the remainder is 0 (R65). -/
theorem fraction_le_iff_dvd {M d e n L : Nat} (hM : M * d = 2 ^ 32 + e) (hen : e * n < 2 ^ 32)
    (hL : L * d = 2 ^ 32 * (n % d) + e * n) : L ≤ M - 1 ↔ d ∣ n := by
  obtain ⟨hMpos, hdpos⟩ := factors_pos hM
  rw [Nat.dvd_iff_mod_eq_zero]
  by_cases hr : n % d = 0
  · have hlt : L * d < M * d := by omega
    have hlt : L < M := Nat.lt_of_mul_lt_mul_right hlt
    exact iff_of_true (by omega) hr
  · have hn : 0 < n := Nat.pos_of_ne_zero fun h => hr (by rw [h, Nat.zero_mod])
    have he : e ≤ e * n := Nat.le_mul_of_pos_right e hn
    have hle : M * d ≤ L * d := by omega
    have hle : M ≤ L := Nat.le_of_mul_le_mul_right hle hdpos
    exact iff_of_false (by omega) hr

section
variable (t : Reciprocal) (n : Half)

theorem hi32_firstProduct_toNat : (hi32 (firstProduct t n)).toNat = t.mult.toNat * n.toNat / 2 ^ 32 := by
  rw [hi32_toNat, firstProduct, mul64_toNat, zext32_toNat]

theorem fraction_toNat : (fraction t n).toNat = t.mult.toNat * n.toNat % 2 ^ 32 := by
  rw [fraction, mul32_toNat, zext32_toNat]

theorem shiftedQuotient_toNat : (shiftedQuotient t n).toNat = n.toNat / 2 ^ t.mult.toNat := by
  rw [shiftedQuotient, BitVec.toNat_ushiftRight, Nat.shiftRight_eq_div_pow]

/-- The cut of the mask to 16 bits does not matter to a 16-bit dividend (R53). -/
theorem maskedRemainder_toNat : (maskedRemainder t n).toNat = n.toNat &&& t.dmd.toNat := by
  have hle : n.toNat &&& t.dmd.toNat ≤ n.toNat := Nat.and_le_left
  rw [maskedRemainder, BitVec.toNat_and, trunc16_toNat, ← Nat.mod_eq_of_lt (hle.trans_lt n.isLt), Nat.and_mod_two_pow,
    Nat.mod_eq_of_lt n.isLt]

/-- The quotient as a number, by the path of the triple (R52). -/
theorem quotientOf_toNat : (quotientOf t n).toNat =
    if t.pow2 then n.toNat / 2 ^ t.mult.toNat else t.mult.toNat * n.toNat / 2 ^ 32 % 2 ^ 16 := by
  rw [quotientOf, apply_ite BitVec.toNat, shiftedQuotient_toNat, trunc16_toNat, hi32_firstProduct_toNat]

/-- The remainder as a number, by the path of the triple (R53). -/
theorem remainderOf_toNat : (remainderOf t n).toNat =
    if t.pow2 then n.toNat &&& t.dmd.toNat
    else t.mult.toNat * n.toNat % 2 ^ 32 * t.dmd.toNat / 2 ^ 32 % 2 ^ 16 := by
  rw [remainderOf, apply_ite BitVec.toNat, maskedRemainder_toNat, remainderFromFraction, trunc16_toNat, hi32_toNat,
    mul64_toNat, fraction_toNat]

/-- The one first product of DIVMOD gives what DIV and MOD compute each on its own (R54, R56). -/
theorem divmodOf_eq : divmodOf t n = (quotientOf t n, remainderOf t n) := by
  cases hp : t.pow2 <;> simp [divmodOf, quotientOf, remainderOf, hp, fraction, mul32, firstProduct]

end

section
variable {t : Reciprocal} (hp : t.pow2 = false) (hw : t.wf = true) (n : Half)
include hp hw

/-- Rounding `2^32 / d` up leaves an excess below the divisor (R62). -/
theorem exists_excess : ∃ e, t.mult.toNat * t.dmd.toNat = 2 ^ 32 + e ∧ e < t.dmd.toNat := by
  obtain ⟨hlow, -, -, hmult⟩ := (Reciprocal.wf_general hp).mp hw
  have hdiv := Nat.div_add_mod (2 ^ 32 - 1) t.dmd.toNat
  have hmod : (2 ^ 32 - 1) % t.dmd.toNat < t.dmd.toNat := Nat.mod_lt _ (by omega)
  refine ⟨t.dmd.toNat - 1 - (2 ^ 32 - 1) % t.dmd.toNat, ?_, by omega⟩
  rw [hmult, magicConstant_toNat (by omega), Nat.add_mul, Nat.mul_comm]
  omega

/-- The excess times a 16-bit dividend stays below `2^32` (R62), so the product splits for every dividend (R63). -/
theorem exists_product_split : ∃ e L, t.mult.toNat * t.dmd.toNat = 2 ^ 32 + e ∧ e * n.toNat < 2 ^ 32 ∧ L < 2 ^ 32 ∧
    t.mult.toNat * n.toNat = 2 ^ 32 * (n.toNat / t.dmd.toNat) + L ∧
    L * t.dmd.toNat = 2 ^ 32 * (n.toNat % t.dmd.toNat) + e * n.toNat := by
  obtain ⟨-, hhigh, -, -⟩ := (Reciprocal.wf_general hp).mp hw
  obtain ⟨e, hM, he⟩ := exists_excess hp hw
  have hen : e * n.toNat ≤ 65534 * 65535 := Nat.mul_le_mul (by omega) (by omega)
  have hen : e * n.toNat < 2 ^ 32 := by omega
  obtain ⟨L, hL⟩ := magic_product_split hM hen
  exact ⟨e, L, hM, hen, hL⟩

/-- The high half of the first product is the quotient (R63). -/
theorem mul_div_of_general : t.mult.toNat * n.toNat / 2 ^ 32 = n.toNat / t.dmd.toNat := by
  obtain ⟨e, L, -, -, hlt, hprod, -⟩ := exists_product_split hp hw n
  omega

/-- The high half of the second product is the remainder (R64). -/
theorem fraction_mul_div_of_general :
    t.mult.toNat * n.toNat % 2 ^ 32 * t.dmd.toNat / 2 ^ 32 = n.toNat % t.dmd.toNat := by
  obtain ⟨e, L, -, hen, hlt, hprod, hL⟩ := exists_product_split hp hw n
  have hfrac : t.mult.toNat * n.toNat % 2 ^ 32 = L := by omega
  rw [hfrac]
  omega

/-- The fraction is at most the constant less one exactly when the divisor divides the dividend (R65). -/
theorem fraction_le_iff_of_general :
    t.mult.toNat * n.toNat % 2 ^ 32 ≤ t.mult.toNat - 1 ↔ t.dmd.toNat ∣ n.toNat := by
  obtain ⟨e, L, hM, hen, hlt, hprod, hL⟩ := exists_product_split hp hw n
  have hfrac : t.mult.toNat * n.toNat % 2 ^ 32 = L := by omega
  rw [hfrac]
  exact fraction_le_iff_dvd hM hen hL

end

section
variable {t : Reciprocal} (hw : t.wf = true) (n : Half)
include hw

/-- DIV is exact on both paths (R63, R67); the cut to 16 bits loses nothing, a quotient being at most its dividend. -/
theorem quotientOf_exact : (quotientOf t n).toNat = n.toNat / t.divisor := by
  rw [quotientOf_toNat]
  cases hp : t.pow2 with
  | true => rw [if_pos rfl, divisor_of_pow2 hp hw]
  | false =>
    have hle : n.toNat / t.dmd.toNat ≤ n.toNat := Nat.div_le_self ..
    rw [if_neg Bool.false_ne_true, mul_div_of_general hp hw, divisor_of_general hp,
      Nat.mod_eq_of_lt (hle.trans_lt n.isLt)]

/-- The mask `2^k - 1` keeps the remainder by `2^k` (R67). -/
theorem and_dmd_of_pow2 (hp : t.pow2 = true) : n.toNat &&& t.dmd.toNat = n.toNat % t.divisor := by
  rw [dmd_toNat_of_pow2 hp hw, Nat.and_two_pow_sub_one_eq_mod, divisor_of_pow2 hp hw]

/-- MOD is exact on both paths (R64, R67); the cut to 16 bits loses nothing, a remainder being at most its dividend. -/
theorem remainderOf_exact : (remainderOf t n).toNat = n.toNat % t.divisor := by
  rw [remainderOf_toNat]
  cases hp : t.pow2 with
  | true => rw [if_pos rfl, and_dmd_of_pow2 hw n hp]
  | false =>
    have hle : n.toNat % t.dmd.toNat ≤ n.toNat := Nat.mod_le ..
    rw [if_neg Bool.false_ne_true, fraction_mul_div_of_general hp hw, divisor_of_general hp,
      Nat.mod_eq_of_lt (hle.trans_lt n.isLt)]

/-- The bit of DIVISIBLE in numbers, by the path of the triple (R55); the constant of a well-formed triple is not 0, so
`MULT - 1` does not wrap (R60). -/
theorem divisibleOf_iff : divisibleOf t n = true ↔
    if t.pow2 then n.toNat &&& t.dmd.toNat = 0
    else t.mult.toNat * n.toNat % 2 ^ 32 ≤ t.mult.toNat - 1 := by
  cases hp : t.pow2 with
  | true =>
    rw [divisibleOf, if_pos hp, if_pos rfl, decide_eq_true_iff, ← maskedRemainder_toNat, ← BitVec.toNat_inj]
    rfl
  | false =>
    obtain ⟨e, hM, -⟩ := exists_excess hp hw
    obtain ⟨hpos, -⟩ := factors_pos hM
    have hsub : (t.mult - 1#32).toNat = t.mult.toNat - 1 := by bv_omega
    rw [divisibleOf, hp, if_neg Bool.false_ne_true, if_neg Bool.false_ne_true, withinSlack, decide_eq_true_iff,
      BitVec.le_def, fraction_toNat, hsub]

/-- DIVISIBLE is exact on both paths (R65, R67). -/
theorem divisibleOf_exact : divisibleOf t n = true ↔ t.divisor ∣ n.toNat := by
  rw [divisibleOf_iff hw]
  cases hp : t.pow2 with
  | true => rw [if_pos rfl, and_dmd_of_pow2 hw n hp, Nat.dvd_iff_mod_eq_zero]
  | false => rw [if_neg Bool.false_ne_true, fraction_le_iff_of_general hp hw, divisor_of_general hp]

end

end Sys2Proof.Machine
end

section
/-! PROOFS. What each query of a ready engine answers (41_queries.md R51 to R58). -/

namespace Sys2Proof.Machine

/-- Settles O27: a ready engine answers the quotient of its triple, which is exact. -/
theorem divAnswersTheQuotient : Obligations.DivAnswersTheQuotient := by
  intro s n
  refine ⟨by simp [encode_toNat, opcodeOf, Instr.operand], fun ⟨hf, hv, hw⟩ => ?_⟩
  have hs : s.Ready := ⟨hf, hv, hw⟩
  exact ⟨_, exec_query_of_ready hs rfl, quotientOf_toNat s.recip n, quotientOf_exact hw n⟩

/-- Settles O28: a ready engine answers the remainder of its triple, which is exact. -/
theorem modAnswersTheRemainder : Obligations.ModAnswersTheRemainder := by
  intro s n
  refine ⟨by simp [encode_toNat, opcodeOf, Instr.operand], fun ⟨hf, hv, hw⟩ => ?_⟩
  have hs : s.Ready := ⟨hf, hv, hw⟩
  exact ⟨_, exec_query_of_ready hs rfl, remainderOf_toNat s.recip n, remainderOf_exact hw n⟩

/-- A ready engine answers DIVMOD with the quotient of DIV and the remainder of MOD (R56). -/
theorem exec_divmod_of_ready {s : State} (n : Half) (hs : s.Ready) :
    exec (.divmod n) s =
      .next (s.respond (.quotientRemainder (quotientOf s.recip n) (remainderOf s.recip n))) := by
  rw [exec_query_of_ready hs rfl, queryAnswer, divmodOf_eq]

/-- Settles O29: both numbers are those of DIV and MOD, and exact quotient and remainder make up the dividend. -/
theorem divmodAnswersBoth : Obligations.DivmodAnswersBoth := by
  intro s n
  refine ⟨by simp [encode_toNat, opcodeOf, Instr.operand], fun ⟨hf, hv, hw⟩ => ?_⟩
  have hs : s.Ready := ⟨hf, hv, hw⟩
  refine ⟨_, _, exec_divmod_of_ready n hs, quotientOf_toNat s.recip n, remainderOf_toNat s.recip n, ?_⟩
  rw [quotientOf_exact hw, remainderOf_exact hw]
  exact ⟨Nat.div_add_mod' .., Nat.mod_lt _ (Nat.pos_of_ne_zero (divisor_ne_zero hw))⟩

/-- Settles O30: a ready engine answers the bit of its triple, which is exact. -/
theorem divisibleAnswersWhetherItDivides : Obligations.DivisibleAnswersWhetherItDivides := by
  intro s n
  refine ⟨by simp [encode_toNat, opcodeOf, Instr.operand], fun ⟨hf, hv, hw⟩ => ?_⟩
  have hs : s.Ready := ⟨hf, hv, hw⟩
  exact ⟨_, exec_query_of_ready hs rfl, divisibleOf_iff hw n, divisibleOf_exact hw n⟩

/-- Settles O34: DIVMOD answers with the numbers of DIV and MOD. -/
theorem divmodAgreesWithDivAndMod : Obligations.DivmodAgreesWithDivAndMod :=
  fun _ n hs => ⟨_, _, exec_query_of_ready hs rfl, exec_query_of_ready hs rfl, exec_divmod_of_ready n hs⟩

/-- Settles O39: a ready engine's answer is a function of the triple it holds. -/
theorem queryResponseDependsOnTheTripleAlone : Obligations.QueryResponseDependsOnTheTripleAlone := by
  intro s u i hq hs hu hrecip
  exact ⟨queryAnswer i s.recip, exec_query_of_ready hs hq, hrecip ▸ exec_query_of_ready hu hq⟩

/-- The triple of divisor 1 shifts by 0 and masks everything away (R57). -/
theorem div_mod_by_one (n : Half) :
    quotientOf { dmd := 0#32, mult := 0#32, pow2 := true } n = n ∧
      remainderOf { dmd := 0#32, mult := 0#32, pow2 := true } n = 0#16 := by
  simp [quotientOf, shiftedQuotient, remainderOf, maskedRemainder, trunc16]

/-- Settles O35: 1 is the power of two with shift 0 and mask 0, and the engine that has loaded it is ready. -/
theorem divisorOneIsExact : Obligations.DivisorOneIsExact := by
  intro s n hf
  have hb : buildReciprocal 1#16 = some { dmd := 0#32, mult := 0#32, pow2 := true } :=
    buildReciprocal_two_pow (k := 0) (by decide)
  have hready := ready_of_load hf hb
  obtain ⟨hq, hr⟩ := div_mod_by_one n
  refine ⟨_, execConstruct_of_build hf hb, rfl, hf, ?_, ?_⟩
  · rw [exec_query_of_ready hready rfl, queryAnswer, State.respond_recip, State.load_recip, hq]
  · rw [exec_divmod_of_ready n hready, State.respond_recip, State.load_recip, hq, hr]

end Sys2Proof.Machine
end

section
/-! PROOFS. The arithmetic of the general path for a divisor on it: the constant, its excess, the two products, the
comparison of DIVISIBLE, the cuts to 16 bits and the ranges (42_arithmetic_laws.md R59 to R65, R68). -/

namespace Sys2Proof.Machine

section
variable (d : Half)

@[simp] theorem generalTriple_dmd : (generalTriple d).dmd = zext32 d := rfl
@[simp] theorem generalTriple_mult : (generalTriple d).mult = magicConstant (zext32 d) := rfl
@[simp] theorem generalTriple_pow2 : (generalTriple d).pow2 = false := rfl

@[simp] theorem generalTriple_divisor : (generalTriple d).divisor = d.toNat := zext32_toNat d

end

theorem trunc16_toNat_of_lt {v : Word} (h : v.toNat < 2 ^ 16) : (trunc16 v).toNat = v.toNat := by
  rw [trunc16_toNat, Nat.mod_eq_of_lt h]

/-- The first product is exact, whatever the triple (R60). -/
theorem firstProduct_toNat (t : Reciprocal) (n : Half) : (firstProduct t n).toNat = t.mult.toNat * n.toNat := by
  rw [firstProduct, mul64_toNat, zext32_toNat]

section
variable {t : Reciprocal} (hp : t.pow2 = false) (hw : t.wf = true) (n : Half)
include hp hw

theorem mult_bounds_of_general : 65538 ≤ t.mult.toNat ∧ t.mult.toNat ≤ 1431655766 := by
  obtain ⟨hlow, hhigh, -, hmult⟩ := (Reciprocal.wf_general hp).mp hw
  exact hmult ▸ magicConstant_bounds hlow hhigh

theorem hi32_firstProduct_of_general : (hi32 (firstProduct t n)).toNat = n.toNat / t.dmd.toNat := by
  rw [hi32_firstProduct_toNat, mul_div_of_general hp hw]

theorem hi32_secondProduct_of_general :
    (hi32 (mul64 (fraction t n) t.dmd)).toNat = n.toNat % t.dmd.toNat := by
  rw [hi32_toNat, mul64_toNat, fraction_toNat, fraction_mul_div_of_general hp hw]

/-- A quotient is at most its dividend, so its cut to 16 bits loses nothing (R68). -/
theorem trunc16_hi32_firstProduct :
    (trunc16 (hi32 (firstProduct t n))).toNat = (hi32 (firstProduct t n)).toNat := by
  refine trunc16_toNat_of_lt ?_
  rw [hi32_firstProduct_of_general hp hw]
  exact (Nat.div_le_self ..).trans_lt n.isLt

/-- A remainder is at most its dividend, so its cut to 16 bits loses nothing (R68). -/
theorem trunc16_hi32_secondProduct :
    (trunc16 (hi32 (mul64 (fraction t n) t.dmd))).toNat = (hi32 (mul64 (fraction t n) t.dmd)).toNat := by
  refine trunc16_toNat_of_lt ?_
  rw [hi32_secondProduct_of_general hp hw]
  exact (Nat.mod_le ..).trans_lt n.isLt

/-- A constant below `2^31` and a 16-bit dividend (R59). -/
theorem firstProduct_lt_of_general : (firstProduct t n).toNat < 2 ^ 47 := by
  obtain ⟨-, hmax⟩ := mult_bounds_of_general hp hw
  have hmul : t.mult.toNat * n.toNat < 2 ^ 31 * 2 ^ 16 := Nat.mul_lt_mul'' (by omega) n.isLt
  rwa [firstProduct_toNat]

/-- A 32-bit fraction and a divisor below `2^16` (R59). -/
theorem secondProduct_lt_of_general : (mul64 (fraction t n) t.dmd).toNat < 2 ^ 48 := by
  obtain ⟨-, hhigh, -, -⟩ := (Reciprocal.wf_general hp).mp hw
  have hmul : (fraction t n).toNat * t.dmd.toNat < 2 ^ 32 * 2 ^ 16 := Nat.mul_lt_mul'' (fraction t n).isLt (by omega)
  rwa [mul64_toNat]

end

/-- On the power-of-two path the divisor is at most `2^15`, which bounds the remainder (R59). -/
theorem remainderOf_le_of_pow2 {t : Reciprocal} (hp : t.pow2 = true) (hw : t.wf = true) (n : Half) :
    (remainderOf t n).toNat ≤ 32767 := by
  obtain ⟨hk, -⟩ := (Reciprocal.wf_pow2 hp).mp hw
  have hpow : 2 ^ t.mult.toNat ≤ 2 ^ 15 := Nat.pow_le_pow_right (by decide) hk
  have hmod : n.toNat % 2 ^ t.mult.toNat < 2 ^ t.mult.toNat := Nat.mod_lt _ (Nat.two_pow_pos _)
  rw [remainderOf_exact hw, divisor_of_pow2 hp hw]
  omega

section
variable {d : Half} (hd : GeneralDivisor d)
include hd

/-- Only powers of two divide `2^k`, and no general-path divisor is one. -/
theorem not_dvd_two_pow_of_generalDivisor (k : Nat) : ¬ d.toNat ∣ 2 ^ k := fun hdvd => by
  obtain ⟨j, -, hj⟩ := (Nat.dvd_prime_pow Nat.prime_two).mp hdvd
  have hpow : isPow2 d = true := isPow2_iff_isPowerOfTwo.mpr ⟨j, hj⟩
  simp [not_isPow2_of_generalDivisor hd] at hpow

theorem wf_generalTriple : (generalTriple d).wf = true :=
  wf_of_buildReciprocal (buildReciprocal_general (not_isPow2_of_generalDivisor hd) hd.left)

/-- The excess is not 0, since `d` does not divide `2^32` (R62). -/
theorem exists_excess_of_generalDivisor :
    ∃ e, (magicConstant (zext32 d)).toNat * d.toNat = 2 ^ 32 + e ∧ 1 ≤ e ∧ e < d.toNat := by
  obtain ⟨e, hM, he⟩ := exists_excess rfl (wf_generalTriple hd)
  rw [generalTriple_mult, generalTriple_dmd, zext32_toNat] at hM
  rw [generalTriple_dmd, zext32_toNat] at he
  refine ⟨e, hM, Nat.one_le_iff_ne_zero.mpr ?_, he⟩
  rintro rfl
  exact not_dvd_two_pow_of_generalDivisor hd 32 (Dvd.intro_left _ hM)

/-- The split of the first product, with the fraction in place of its low half (R63). -/
theorem product_split_of_generalDivisor (n : Half) :
    ∃ e, (magicConstant (zext32 d)).toNat * d.toNat = 2 ^ 32 + e ∧ e * n.toNat < 2 ^ 32 ∧
      (magicConstant (zext32 d)).toNat * n.toNat =
        2 ^ 32 * (n.toNat / d.toNat) + (fraction (generalTriple d) n).toNat ∧
      (fraction (generalTriple d) n).toNat * d.toNat = 2 ^ 32 * (n.toNat % d.toNat) + e * n.toNat := by
  obtain ⟨e, L, hM, hen, hlt, hprod, hL⟩ := exists_product_split rfl (wf_generalTriple hd) n
  have hfrac : (fraction (generalTriple d) n).toNat = L := by
    rw [fraction_toNat]
    omega
  simp only [generalTriple_mult, generalTriple_dmd, zext32_toNat] at hM hprod hL
  exact ⟨e, hM, hen, by rw [hfrac, hprod], by rw [hfrac, hL]⟩

/-- A constant less than the least multiple above `2^32` gives 0 for the dividend `d` (R63). -/
theorem magicConstant_minimal {M : Nat} (hM : M < (magicConstant (zext32 d)).toNat) : M * d.toNat / 2 ^ 32 = 0 := by
  obtain ⟨e, hexcess, -, he⟩ := exists_excess_of_generalDivisor hd
  have hle : (M + 1) * d.toNat ≤ (magicConstant (zext32 d)).toNat * d.toNat := Nat.mul_le_mul_right _ hM
  rw [Nat.add_mul] at hle
  exact Nat.div_eq_of_lt (by omega)

theorem quotientOf_generalTriple (n : Half) : (quotientOf (generalTriple d) n).toNat = n.toNat / d.toNat := by
  rw [quotientOf_exact (wf_generalTriple hd), generalTriple_divisor]

theorem remainderOf_generalTriple (n : Half) : (remainderOf (generalTriple d) n).toNat = n.toNat % d.toNat := by
  rw [remainderOf_exact (wf_generalTriple hd), generalTriple_divisor]

theorem hi32_firstProduct_generalTriple (n : Half) :
    (hi32 (firstProduct (generalTriple d) n)).toNat = n.toNat / d.toNat := by
  rw [hi32_firstProduct_of_general rfl (wf_generalTriple hd), generalTriple_dmd, zext32_toNat]

theorem hi32_secondProduct_generalTriple (n : Half) :
    (hi32 (mul64 (fraction (generalTriple d) n) (zext32 d))).toNat = n.toNat % d.toNat := by
  rw [← generalTriple_dmd, hi32_secondProduct_of_general rfl (wf_generalTriple hd), generalTriple_dmd, zext32_toNat]

/-- The constant is the quotient of `2^32 - 1` plus 1: the last addition does not wrap (R49, R60). -/
theorem magicConstant_of_generalDivisor : (magicConstant (zext32 d)).toNat = (2 ^ 32 - 1) / d.toNat + 1 := by
  have h3 := three_le_of_generalDivisor hd
  rw [magicConstant_toNat (by rw [zext32_toNat]; omega), zext32_toNat]

end

/-- The division of CONSTRUCT as a number (R49). -/
theorem udiv32_magicDividend (d : Half) :
    (udiv32 Config.magicDividend (zext32 d)).toNat = (2 ^ 32 - 1) / d.toNat := by
  rw [udiv32_toNat, zext32_toNat]
  rfl

/-- Settles O19: `d` does not divide `2^32`, so `2^32 - 1` and `2^32` have the same quotient; the bounds are those of
every general-path constant. -/
theorem magicConstantIsTheCeiling : Obligations.MagicConstantIsTheCeiling := by
  intro d hd
  have h3 := three_le_of_generalDivisor hd
  have hquot : 2 ^ 32 / d.toNat = (2 ^ 32 - 1) / d.toNat :=
    Nat.succ_div_of_not_dvd (not_dvd_two_pow_of_generalDivisor hd 32)
  have hceil : (2 ^ 32 + d.toNat - 1) / d.toNat = (2 ^ 32 - 1) / d.toNat + 1 := by
    rw [Nat.sub_add_comm (by decide), Nat.add_div_right _ (by omega)]
  exact ⟨magicConstant_of_generalDivisor hd, by rw [hquot], by rw [hquot, hceil],
    mult_bounds_of_general rfl (wf_generalTriple hd)⟩

/-- Settles O20: the excess is positive and below a 16-bit divisor, so its product with a 16-bit dividend is too small
to carry. -/
theorem excessStaysBelowTheDivisor : Obligations.ExcessStaysBelowTheDivisor := by
  intro d hd
  obtain ⟨e, hM, hpos, he⟩ := exists_excess_of_generalDivisor hd
  refine ⟨e, hM, hpos, by omega, by omega, fun n => ?_⟩
  have hen : e * n.toNat ≤ 65534 * 65535 := Nat.mul_le_mul (by omega) (by omega)
  exact ⟨hen, by omega⟩

/-- Settles O21: the split of the product, whose low half is the fraction by definition, and the minimality of the
constant. -/
theorem firstProductSplitsIntoQuotientAndFraction : Obligations.FirstProductSplitsIntoQuotientAndFraction := by
  intro d hd
  refine ⟨fun n => ?_, fun M' => magicConstant_minimal hd⟩
  obtain ⟨e, hM, -, hprod, hL⟩ := product_split_of_generalDivisor hd n
  exact ⟨e, _, hM, (fraction (generalTriple d) n).isLt, hprod, hL, hi32_firstProduct_generalTriple hd n, rfl, rfl,
    quotientOf_generalTriple hd n⟩

/-- Settles O22: the excess's part of the second product does not reach its high half. -/
theorem secondProductGivesTheRemainder : Obligations.SecondProductGivesTheRemainder := by
  intro d n hd
  obtain ⟨e, hM, hen, -, hL⟩ := product_split_of_generalDivisor hd n
  refine ⟨e, hM, hen, hL, hi32_secondProduct_generalTriple hd n, remainderOf_generalTriple hd n, ?_⟩
  rw [divmodOf_eq, remainderOf_generalTriple hd]

/-- Settles O23: the comparison of the fraction with the constant, which DIVISIBLE makes. -/
theorem fractionDecidesDivisibility : Obligations.FractionDecidesDivisibility := by
  intro d n hd
  have hw := wf_generalTriple hd
  constructor
  · rw [fraction_toNat, ← generalTriple_mult, fraction_le_iff_of_general rfl hw, generalTriple_dmd, zext32_toNat,
      Nat.dvd_iff_mod_eq_zero]
  · rw [divisibleOf_exact hw, generalTriple_divisor]

/-- Settles O25: the least divisor, 3, bounds the quotient and the greatest, 65535, the remainder; both are reached
there. -/
theorem truncationsLoseNothing : Obligations.TruncationsLoseNothing := by
  refine ⟨fun d n hd => ?_, by decide, by decide⟩
  have hw := wf_generalTriple hd
  have h3 := three_le_of_generalDivisor hd
  have hquot : n.toNat / d.toNat ≤ 65535 / 3 := Nat.div_le_div (by omega) h3 (by decide)
  have hmod : n.toNat % d.toNat < d.toNat := Nat.mod_lt _ (by omega)
  refine ⟨?_, trunc16_hi32_firstProduct rfl hw n, ?_, ?_, trunc16_hi32_secondProduct rfl hw n⟩
  · rwa [hi32_firstProduct_generalTriple hd]
  all_goals
    rw [hi32_secondProduct_generalTriple hd]
    omega

/-- Settles O26: the subtraction, the division and the addition of CONSTRUCT; the products, the cuts and the subtraction
of the general path; the shift and the mask of the other; and a fraction that wraps, `0x55555556 * 3`. -/
theorem intermediateValuesStayInRange : Obligations.IntermediateValuesStayInRange := by
  refine ⟨fun d => toNat_sub_one_of_ne_zero, fun d hd => ?_, fun t n hw => ⟨fun hp => ?_, fun hp => ?_⟩,
    generalTriple 3#16, 3#16, by decide⟩
  · have hquot : (2 ^ 32 - 1) / d.toNat ≤ (2 ^ 32 - 1) / 3 :=
      Nat.div_le_div_left (three_le_of_generalDivisor hd) (by decide)
    rw [udiv32_magicDividend]
    exact ⟨rfl, hquot, magicConstant_of_generalDivisor hd⟩
  · obtain ⟨hmin, -⟩ := mult_bounds_of_general hp hw
    exact ⟨firstProduct_toNat t n, firstProduct_lt_of_general hp hw n, mul64_toNat ..,
      secondProduct_lt_of_general hp hw n, trunc16_hi32_firstProduct hp hw n, trunc16_hi32_secondProduct hp hw n,
      by bv_omega, hmin, fraction_toNat t n⟩
  · obtain ⟨hk, -⟩ := (Reciprocal.wf_pow2 hp).mp hw
    exact ⟨by omega, shiftedQuotient_toNat t n, remainderOf_le_of_pow2 hp hw n⟩

end Sys2Proof.Machine
end

section
/-! PROOFS. The queries for the divisor that was constructed, on both paths at once: exact quotient, remainder and
divisibility (42_arithmetic_laws.md R66, R67, R69, R70). -/

namespace Sys2Proof.Machine

theorem powerOfTwoTriple_divisor {d : Half} (hd : d ≠ 0#16) : (powerOfTwoTriple d).divisor = d.toNat := by
  have hpos : d.toNat ≠ 0 := fun h => hd (BitVec.toNat_inj.mp h)
  rw [Reciprocal.divisor, powerOfTwoTriple, if_pos rfl, zext32_toNat, toNat_sub_one_of_ne_zero hd]
  omega

section
variable {d : Half} {t : Reciprocal} (hb : buildReciprocal d = some t) (n : Half)
include hb

/-- The triple that construction builds stands for the divisor it was built from (R15). -/
theorem divisor_of_buildReciprocal : t.divisor = d.toNat := by
  have hd := ne_zero_of_buildReciprocal hb
  cases hp : isPow2 d with
  | true =>
    rw [buildReciprocal, if_pos hp] at hb
    cases hb
    exact powerOfTwoTriple_divisor hd
  | false =>
    rw [buildReciprocal_general hp hd] at hb
    cases hb
    exact generalTriple_divisor d

theorem divisor_pos_of_buildReciprocal : 0 < d.toNat := by
  rw [← divisor_of_buildReciprocal hb]
  exact Nat.pos_of_ne_zero (divisor_ne_zero (wf_of_buildReciprocal hb))

theorem quotientOf_of_buildReciprocal : (quotientOf t n).toNat = n.toNat / d.toNat := by
  rw [quotientOf_exact (wf_of_buildReciprocal hb), divisor_of_buildReciprocal hb]

theorem remainderOf_of_buildReciprocal : (remainderOf t n).toNat = n.toNat % d.toNat := by
  rw [remainderOf_exact (wf_of_buildReciprocal hb), divisor_of_buildReciprocal hb]

theorem divisibleOf_of_buildReciprocal : divisibleOf t n = true ↔ d.toNat ∣ n.toNat := by
  rw [divisibleOf_exact (wf_of_buildReciprocal hb), divisor_of_buildReciprocal hb]

/-- The three answers are pinned by the division identity: its `q` and `r` are unique. -/
theorem answers_of_division {q r : Half} (hn : r.toNat + d.toNat * q.toNat = n.toNat) (hr : r.toNat < d.toNat) :
    quotientOf t n = q ∧ remainderOf t n = r ∧ divisibleOf t n = decide (r = 0#16) := by
  obtain ⟨hq, hm⟩ := (Nat.div_mod_unique (divisor_pos_of_buildReciprocal hb)).mpr ⟨hn, hr⟩
  refine ⟨BitVec.eq_of_toNat_eq ?_, BitVec.eq_of_toNat_eq ?_, Bool.eq_iff_iff.mpr ?_⟩
  · rw [quotientOf_of_buildReciprocal hb, hq]
  · rw [remainderOf_of_buildReciprocal hb, hm]
  · rw [divisibleOf_of_buildReciprocal hb, Nat.dvd_iff_mod_eq_zero, hm, decide_eq_true_iff, ← BitVec.toNat_inj]
    rfl

end

/-- Settles O24: the triple of `2^k`, and the exactness of what is answered from any triple that was built. -/
theorem powerOfTwoPathIsExact : Obligations.PowerOfTwoPathIsExact := by
  intro s t k n hk h
  have hlt : 2 ^ k < 2 ^ 16 := Nat.pow_lt_pow_right (by decide) hk
  have hnat : (BitVec.ofNat 16 (2 ^ k)).toNat = 2 ^ k := Nat.mod_eq_of_lt hlt
  have hb := buildReciprocal_two_pow hk
  obtain ⟨hf, -⟩ := execConstruct_next h
  rw [exec_construct, execConstruct_of_build hf hb] at h
  cases h
  have hquot := quotientOf_of_buildReciprocal hb n
  have hrem := remainderOf_of_buildReciprocal hb n
  have hdvd := divisibleOf_of_buildReciprocal hb n
  rw [hnat] at hquot hrem hdvd
  simp only [State.respond_recip, State.load_recip, divmodOf_eq]
  exact ⟨Nat.mod_eq_of_lt (by omega), Nat.mod_eq_of_lt (by omega), hquot, hrem, hquot, hrem, hdvd⟩

/-- Settles O36: CONSTRUCT loads the triple of `d`, and the engine is ready to answer from it. -/
theorem queriesAreExactAfterConstruct : Obligations.QueriesAreExactAfterConstruct := by
  intro s d n hf hd
  obtain ⟨r, hb⟩ := Option.ne_none_iff_exists'.mp (mt buildReciprocal_eq_none.mp hd)
  have hready := ready_of_load hf hb
  have hquot := quotientOf_of_buildReciprocal hb n
  have hrem := remainderOf_of_buildReciprocal hb n
  have hdvd := divisibleOf_of_buildReciprocal hb n
  rw [Nat.dvd_iff_mod_eq_zero] at hdvd
  exact ⟨_, execConstruct_of_build hf hb, rfl, ⟨_, exec_query_of_ready hready rfl, hquot⟩,
    ⟨_, exec_query_of_ready hready rfl, hrem⟩, ⟨_, _, exec_divmod_of_ready n hready, hquot, hrem⟩,
    ⟨_, exec_query_of_ready hready rfl, hdvd⟩⟩

/-- Settles O37: the exact quotient and remainder of DIV and MOD satisfy the identity. -/
theorem divisionIdentity : Obligations.DivisionIdentity := by
  intro s d n hf hd
  obtain ⟨t, hconstruct, -, ⟨q, hdiv, hq⟩, ⟨r, hmod, hr⟩, -, -⟩ := queriesAreExactAfterConstruct s d n hf hd
  have hpos : 0 < d.toNat := Nat.pos_of_ne_zero fun h => hd (BitVec.toNat_inj.mp h)
  refine ⟨t, q, r, hconstruct, hdiv, hmod, ?_⟩
  rw [hq, hr]
  exact ⟨Nat.div_add_mod' .., Nat.mod_lt _ hpos⟩

/-- Settles O38: each corner names the `q` and `r` of its division identity, which are unique. -/
theorem cornerResults : Obligations.CornerResults := by
  refine ⟨fun d n t hb => ⟨?zero, ?below, ?equal, ?one, ?two, ?topPower, ?three, ?bound⟩,
    fun d => buildReciprocal_eq_none⟩
  case zero =>
    rintro rfl
    exact answers_of_division hb 0#16 rfl (divisor_pos_of_buildReciprocal hb)
  case below =>
    intro hn hlt
    rw [← decide_eq_false hn]
    exact answers_of_division hb n rfl hlt
  case equal =>
    rintro rfl
    exact answers_of_division hb n (by simp) (divisor_pos_of_buildReciprocal hb)
  case one =>
    rintro rfl
    exact answers_of_division hb n (by simp) (by decide)
  case two =>
    rintro rfl rfl
    exact answers_of_division hb 65535#16 rfl (by decide)
  case topPower =>
    rintro rfl rfl
    exact answers_of_division hb 65535#16 rfl (by decide)
  case three =>
    rintro rfl rfl
    exact answers_of_division hb 65535#16 rfl (by decide)
  case bound =>
    rw [quotientOf_of_buildReciprocal hb]
    exact Nat.div_le_self ..

end Sys2Proof.Machine
end

section
/-! PROOFS. Faults: the faulted engine and the reset that ends it, which command raises which fault, and what the host
observes (60_exceptions.md R71 to R78, R84). -/

namespace Sys2Proof.Machine

variable {s t : State} {i : Instr} {c : Cause}

theorem cmdReady_of_faulted (h : s.fault = some c) : cmdReady s = false := by
  simp [cmdReady, h]

theorem commandTaken_of_faulted (h : s.fault = some c) : commandTaken s = false := by
  rw [commandTaken, cmdReady_of_faulted h, Bool.and_false]

/-- Settles O9: with no reset to come the engine meets the presented word, which no faulted engine executes. -/
theorem faultedEngineTakesNoCommand : Obligations.FaultedEngineTakesNoCommand := by
  intro s c hf
  refine ⟨cmdReady_of_faulted hf, commandTaken_of_faulted hf, exec_of_faulted hf, fun w ms hmoves hreset => ?_⟩
  rw [step_of_meetFirst (meetNext_no_reset (by simpa [hmoves] using hreset)), hmoves]
  exact exec_of_faulted (s := { s with moves := ms }) hf _

/-- A reset takes effect in a faulted engine, behind the words presented before it (R78, R86). -/
theorem step_faulted_reset {ws : List CmdWord} {ms : List HostMove} (hf : s.fault = some c)
    (hmoves : s.moves = ws.map .command ++ .reset :: ms) :
    step s = .next { s.hostReset with moves := ms, untaken := s.untaken ++ ws } := by
  rw [step, meetNext_faulted_reset hf hmoves]
  rfl

/-- Every query of an unfaulted engine without a triple raises `NotConstructed` (R73). -/
theorem exec_query_unconstructed (hq : isQuery i = true) (hf : s.fault = none) (hv : s.valid = false) :
    exec i s = .next (s.raise .notConstructed) := by
  rw [exec_query hq, answerQuery_unconstructed hf hv]

/-- Settles O10: of what a step can do, a faulted engine cannot take a command; a reset to come is met, and leaves an
unfaulted engine without a triple. -/
theorem onlyResetLeavesTheFaultedState : Obligations.OnlyResetLeavesTheFaultedState := by
  constructor
  · intro s t c hf h
    obtain hidle | ⟨ws, ms, hmoves, -, rfl⟩ | ⟨-, -, -, hunfaulted, -⟩ := step_next h
    · exact .inl hidle
    · exact .inr ⟨ws, ms, hmoves, rfl, rfl, rfl, rfl, rfl⟩
    · cases hf.symm.trans hunfaulted
  · intro s c ws ms hf hmoves
    exact ⟨_, step_faulted_reset hf hmoves, rfl, rfl, fun i hq => exec_query_unconstructed hq rfl rfl⟩

/-- Settles O31: all queries share the one test of `VALID`. -/
theorem queryBeforeConstructionFaults : Obligations.QueryBeforeConstructionFaults :=
  fun _ _ => exec_query_unconstructed

/-- The reserved commands are those with the opcodes from 5 up (R37). -/
theorem isReserved_iff_opcodeOf (i : Instr) : isReserved i = true ↔ 5 ≤ (opcodeOf i).toNat := by
  cases i <;> simp [isReserved, opcodeOf]

/-- Settles O32: the opcode of a word is its number divided by 65536, and all reserved rows share one meaning. -/
theorem reservedOpcodesRaiseIllegalCommand : Obligations.ReservedOpcodesRaiseIllegalCommand := by
  constructor
  · intro w
    rw [isReserved_iff_opcodeOf, opcodeOf_decode, opField_toNat, Nat.le_div_iff_mul_le (by decide)]
  · intro s a i hf hi
    have hr : isReserved i = true := by obtain rfl | rfl | rfl := hi <;> rfl
    exact (exec_reserved hr s).trans (raiseIllegal_of_unfaulted hf)

/-- A command that leaves a fault has raised it and done nothing else (R76). -/
theorem eq_raise_of_exec_next (h : exec i s = .next t) (hc : t.fault = some c) : t = s.raise c := by
  obtain ⟨hf, ⟨d, r, -, -, rfl⟩ | ⟨-, -, rfl⟩ | ⟨-, rfl⟩ | ⟨-, -, rfl⟩ | ⟨-, rfl⟩⟩ := exec_next h
  · cases hf.symm.trans hc
  · cases hf.symm.trans hc
  all_goals cases hc; rfl

/-- Settles O51: the state is the one that raising the fault leaves, and it is a faulted one. -/
theorem raisingAFaultIsPrecise : Obligations.RaisingAFaultIsPrecise := by
  intro s t i c h hc
  obtain rfl := eq_raise_of_exec_next h hc
  exact ⟨rfl, rfl, fun ms => commandTaken_of_faulted (s := { s.raise c with moves := ms }) hc, exec_of_faulted hc⟩

/-- The status of the one response of a command is the fault that the command leaves (R40, R76). -/
theorem exec_next_status (h : exec i s = .next t) : ∃ r, t.responses = s.responses ++ [r] ∧ r.status = t.fault := by
  obtain ⟨hf, ⟨d, r, -, -, rfl⟩ | ⟨hq, -, rfl⟩ | ⟨-, rfl⟩ | ⟨-, -, rfl⟩ | ⟨-, rfl⟩⟩ := exec_next h
  · exact ⟨_, rfl, hf.symm⟩
  · exact ⟨_, rfl, (queryAnswer_status hq _).trans hf.symm⟩
  all_goals exact ⟨_, rfl, rfl⟩

theorem ne_construct_of_isQuery_or_isReserved (h : isQuery i = true ∨ isReserved i = true) (d : Half) :
    i ≠ .construct d := by
  rintro rfl
  simp [isQuery, isReserved] at h

/-- Which fault a command leaves tells which command it was, and in the case of a query that no triple was held (R71 to
R74). -/
theorem exec_next_fault_iff (h : exec i s = .next t) :
    (t.fault = some .divideByZero ↔ i = .construct 0#16) ∧
      (t.fault = some .notConstructed ↔ isQuery i = true ∧ s.valid = false) ∧
      (t.fault = some .illegalCommand ↔ isReserved i = true) := by
  obtain ⟨hf, ⟨d, r, rfl, hb, rfl⟩ | ⟨hq, ⟨-, hv, -⟩, rfl⟩ | ⟨rfl, rfl⟩ | ⟨hq, hv, rfl⟩ | ⟨hr, rfl⟩⟩ := exec_next h
  · simp [hf, ne_zero_of_buildReciprocal hb, isQuery, isReserved]
  · simp [hf, hq, hv, ne_construct_of_isQuery_or_isReserved (.inl hq), not_isReserved_of_isQuery hq]
  · simp [isQuery, isReserved]
  · simp [hq, hv, ne_construct_of_isQuery_or_isReserved (.inl hq), not_isReserved_of_isQuery hq]
  · simp [hr, ne_construct_of_isQuery_or_isReserved (.inr hr), not_isQuery_of_isReserved hr]

/-- No fault and the three faults have four different codes (R71). -/
theorem causeCode_injective : Function.Injective causeCode := by
  rintro (_ | _ | _ | _) (_ | _ | _ | _) h <;> simp [causeCode] at h ⊢

/-- Settles O52: the fault by the kind of the command, the status by the fault, and the codes by their being
different. -/
theorem causesOfTheThreeFaults : Obligations.CausesOfTheThreeFaults := by
  constructor
  · intro s t i h
    obtain ⟨hzero, hquery, hreserved⟩ := exec_next_fault_iff h
    refine ⟨hzero, hquery, hreserved, fun r hr => ?_⟩
    obtain ⟨r', hr', hstatus⟩ := exec_next_status h
    obtain rfl : r = r' := by simpa [hr] using hr'
    rw [rspStatus, hstatus, faultCause]
  · intro s
    exact ⟨causeCode_injective.eq_iff' rfl, causeCode_injective.eq_iff' rfl, causeCode_injective.eq_iff' rfl,
      causeCode_injective.eq_iff' rfl⟩

/-- Settles O53: the state is the one that raising the fault leaves; it takes no command, so no step answers one, and a
reset leaves an unfaulted engine without a triple. -/
theorem whatTheHostObservesOfAFault : Obligations.WhatTheHostObservesOfAFault := by
  intro s t i c h hc
  obtain rfl := eq_raise_of_exec_next h hc
  refine ⟨⟨_, rfl, rspStatus_failed_ne c, rfl⟩, cmdReady_of_faulted hc, fun u hu => ?silent, fun ms => ?reset⟩
  case silent =>
    obtain ⟨htaken, -⟩ | ⟨-, hsame⟩ := step_next_responses hu
    · simp [commandTaken_of_faulted hc] at htaken
    · exact hsame
  case reset =>
    refine ⟨_, step_faulted_reset (s := { s.raise c with moves := .reset :: ms }) (ws := []) hc rfl, rfl,
      fun hrst => ?_, fun j hq => exec_query_unconstructed hq rfl rfl⟩
    rw [cmdReady, hrst]
    rfl

end Sys2Proof.Machine
end

section
/-! PROOFS. The reset event, progress of the engine, and the end of a run (70_reset_and_hazards.md R85, R86, R94,
R95). -/

namespace Sys2Proof.Machine

variable {s t : State} {i : Instr} {ms : List HostMove}

/-- A reset asserted next is the step of every engine, faulted or not (R85, R86). -/
theorem step_reset_next (hmoves : s.moves = .reset :: ms) : step s = .next { s.hostReset with moves := ms } := by
  cases hf : s.fault with
  | none => rw [step_of_meetFirst (meetNext_of_unfaulted hf), hmoves]
  | some c =>
    rw [step_faulted_reset (ws := []) hf hmoves, List.append_nil]
    rfl

theorem cmdReady_of_reset_next (hmoves : s.moves = .reset :: ms) : cmdReady s = false := by
  simp [cmdReady, rst, hmoves]

theorem cmdReady_of_unfaulted (hf : s.fault = none) : cmdReady s = !rst s := by
  simp [cmdReady, hf]

/-- Settles O8: the step is the reset event, which leaves an unfaulted engine with the registers of the reset state. -/
theorem resetTakesEffectInAnyState : Obligations.ResetTakesEffectInAnyState :=
  fun _ _ hmoves => ⟨cmdReady_of_reset_next hmoves, _, step_reset_next hmoves, rfl, rfl, ⟨rfl, rfl, rfl⟩, rfl, rfl,
    rfl, cmdReady_of_unfaulted rfl⟩

/-- The command that a well-formed unfaulted state meets next has a step, which makes this one move (R95). -/
theorem step_command_next {w : CmdWord} (hs : s.WellFormed) (hf : s.fault = none)
    (hmoves : s.moves = .command w :: ms) : ∃ t, step s = .next t ∧ t.moves = ms ∧ t.untaken = s.untaken := by
  obtain ⟨t, hexec⟩ := exec_answers (s := { s with moves := ms }) hs hf (decode w)
  exact ⟨t, (stepRunsThePresentedCommand s w ms hf hmoves).trans hexec, exec_next_environment hexec⟩

/-- A command stops with a fault only in a faulted engine: past the first test of the dispatch none does (R77). -/
theorem exec_fault {f : Fault} (h : exec i s = .fault f) : ∃ c, s.fault = some c ∧ f = .engineFaulted c := by
  cases hf : s.fault with
  | some c =>
    rw [exec_of_faulted hf] at h
    cases h
    exact ⟨c, rfl, rfl⟩
  | none =>
    obtain ⟨d, rfl⟩ | hq | hr := instr_kinds i
    · rw [exec_construct, execConstruct, whenUnfaulted_of_unfaulted hf] at h
      split at h <;> cases h
    · rw [exec_query hq, answerQuery, whenUnfaulted_of_unfaulted hf] at h
      split at h <;> cases h
    · rw [exec_reserved hr, raiseIllegal_of_unfaulted hf] at h
      cases h

/-- The engine meets the first of the host's moves, or goes past it to a reset. -/
theorem meetNext_eq_meetFirst_or_reset (s : State) : meetNext s = meetFirst s ∨ ∃ u, meetNext s = .reset u := by
  unfold meetNext
  split
  · exact .inr ⟨_, rfl⟩
  · exact .inl rfl

/-- Only a faulted engine is stuck (R77, R95): of what it can meet, only a command stops. -/
theorem step_fault {f : Fault} (h : step s = .fault f) : ∃ c, s.fault = some c ∧ f = .engineFaulted c := by
  obtain hfirst | ⟨u, hreset⟩ := meetNext_eq_meetFirst_or_reset s
  · rw [step_of_meetFirst hfirst] at h
    split at h
    · cases h
    · cases h
    next w ms _ => exact exec_fault (s := { s with moves := ms }) h
  · rw [step, hreset] at h
    cases h

/-- A run of commands from a well-formed state finishes without fault or stops at its first fault, one step for each
command that it takes (R95). -/
theorem run_commands_finishes_or_faults (ws : List CmdWord) (hs : s.WellFormed) (hmoves : s.moves = ws.map .command)
    (huntaken : s.untaken = []) :
    ∃ k t, k ≤ ws.length ∧ Host.Core.run Sys2Proof.core k s = .next t ∧
      (t.FinishedWithoutFault ∨ t.fault ≠ none) := by
  induction ws generalizing s with
  | nil =>
    refine ⟨0, s, Nat.le_refl 0, run_zero s, ?_⟩
    by_cases hf : s.fault = none
    · exact .inl ⟨⟨hmoves, huntaken⟩, hf⟩
    · exact .inr hf
  | cons w ws ih =>
    by_cases hf : s.fault = none
    · obtain ⟨u, hstep, humoves, huu⟩ := step_command_next hs hf hmoves
      obtain ⟨k, t, hk, hrun, hend⟩ := ih (stepKeepsStatesWellFormed s u hs hstep) humoves (huu.trans huntaken)
      exact ⟨k + 1, t, Nat.succ_le_succ hk, (run_succ_of_step hstep).trans hrun, hend⟩
    · exact ⟨0, s, Nat.zero_le _, run_zero s, .inr hf⟩

/-- Settles O48: the step of a presented command, the stuck states, and the run of a list of commands from reset. -/
theorem everyCommandHasAStep : Obligations.EveryCommandHasAStep := by
  refine ⟨fun s w ms hs hf hmoves => ?_, fun s f => step_fault, fun ws => ?_⟩
  · obtain ⟨t, hstep, ht, -⟩ := step_command_next hs hf hmoves
    exact ⟨t, hstep, ht⟩
  · exact run_commands_finishes_or_faults (s := .start (ws.map .command)) ws nofun rfl rfl

/-- The commands answered, the words that stay untaken and the commands still to come, counted together (R94). -/
def State.commandCount (s : State) : Nat :=
  s.responses.length + s.untaken.length + (s.moves.filter isCommand).length

/-- A run keeps the count of commands, since every step does. -/
theorem commandCount_of_run {k : Nat} (h : Host.Core.run Sys2Proof.core k s = .next t) :
    t.commandCount = s.commandCount :=
  run_keeps (P := (State.commandCount · = s.commandCount))
    (fun u v hu hstep => (stepAccountsForEveryCommand u v hstep).trans hu) rfl h

theorem commandCount_start (ms : List HostMove) : (State.start ms).commandCount = (ms.filter isCommand).length := by
  simp [State.commandCount]

theorem commandCount_of_finished (hs : s.Finished) : s.commandCount = s.responses.length := by
  obtain ⟨hmoves, huntaken⟩ := hs
  simp [State.commandCount, hmoves, huntaken]

/-- Settles O55: at the start of a run all commands are still to come, at its end all are answered, and their count is
the same. -/
theorem finishedRunsHaveAnsweredEveryCommand : Obligations.FinishedRunsHaveAnsweredEveryCommand := by
  intro ms k s hreach hfin
  rw [← commandCount_of_finished hfin, commandCount_of_run hreach, commandCount_start]

end Sys2Proof.Machine
end
